-- ==== Sys2Proof/Word.lean ====
section
/-! DEFINITION. The word types of the block's ports and signals, each at the width it has at DIST_W = 32, the widest
build (`00_scope.md` R8). A narrower build uses the low bits of them; the bits above its port are 0 (log 4). -/

namespace Sys2Proof

/-- A value of the `dist` port or of the internal signal `m` (R29, R58): `DIST_W` bits, 32 at most. -/
abbrev Word := BitVec 32

/-- A value of the `sym` port (R30): `SYM_W` bits, 6 at most. -/
abbrev SymBits := BitVec 6

/-- A value of the `ebits` port (R31): `EB_W` bits, 5 at most. -/
abbrev CountBits := BitVec 5

/-- A value of the `evalue` port (R32) or of the internal slice `x` (R62): `EV_W` bits, 30 at most. -/
abbrev PayloadBits := BitVec 30

/-- A value of the internal signal `l` (R60): `L_W` bits, 5 at most. -/
abbrev PosBits := BitVec 5

end Sys2Proof
end

