-- ==== Sys2Proof/Config.lean ====
section
/-! DEFINITION. What a build of the block fixes (`DIST_W`, `T_PD`), and the free values: the values the spec leaves
unspecified, as constants without a body, so that no proof can see one. -/

namespace Sys2Proof

/-- The parameter `DIST_W` (R7): an integer from 16 to 32, carried with the proof that it is a legal one. -/
structure DistW where
  val : Nat
  lo : 16 ≤ val
  hi : val ≤ 32
deriving DecidableEq, Repr

/-- `DIST_W = 16`, the classic profile (R7, R18). -/
def DistW.classic : DistW := ⟨16, by decide, by decide⟩

/-- `DIST_W = 32`, the extended profile (R7, R18). -/
def DistW.extended : DistW := ⟨32, by decide, by decide⟩

/-- The two open parameters of a build (R7, R11, R139). They are parameters and not state (R20); State carries them
because the step has no other argument, and no step changes them (log 1). -/
structure Config where
  /-- `DIST_W`, the width of the input port (R7). -/
  distW : DistW
  /-- `T_PD`, the propagation delay, in a unit the spec does not give (R11, R145; log 3). -/
  tPd : Nat
deriving DecidableEq, Repr

/-! The free values. Each is a draw for one port or one internal signal, numbered by State's counter `draws` (log 8). The
number alone selects it: two states of two copies or two builds with the same count draw equal values, where R119 lets
implementations differ. That is the model's choice (log 22), and no statement compares two draws.
Which rule leaves the value open is said where it is drawn (Machine/Ops.lean). -/

/-- A free value of `sym` (R119, R137, R140, R142), the same for every copy and build at one number (log 22). -/
opaque Config.freeSym : Nat → SymBits
/-- A free value of `ebits` (R119, R137, R140, R142). -/
opaque Config.freeEbits : Nat → CountBits
/-- A free value of `evalue` (R119, R137, R140, R142). -/
opaque Config.freeEvalue : Nat → PayloadBits
/-- A free value of `dom_err` (R137, R140, R142). -/
opaque Config.freeDomErr : Nat → Bool
/-- A free value of `ext` (R137, R140, R142). -/
opaque Config.freeExt : Nat → Bool
/-- A free value of the internal signal `m` (R58: not used for `dist = 0`). -/
opaque Config.freeM : Nat → Word
/-- A free value of the internal signal `small` (while `dist` has not settled). -/
opaque Config.freeSmall : Nat → Bool
/-- A free value of the internal signal `l` (R78: BITLEN at 0). -/
opaque Config.freeL : Nat → PosBits
/-- A free value of the internal signal `r` (R61: not defined on the small path). -/
opaque Config.freeR : Nat → Bool
/-- A free value of the internal slice `x` (R62: not defined on the small path). -/
opaque Config.freeX : Nat → PayloadBits

end Sys2Proof
end

