-- ==== Sys2Proof/Syntax.lean ====
section
/-! DEFINITION. The instructions: one constructor per row of spec/opcode_table.json. -/

namespace Sys2Proof

/-- One row of the opcode table. The block has one operation, ENCODE (R101), performed on every input word; the rows
BITLEN, SYMMAP and EXTRACT are its sub-units (R2), which read and drive internal signals; DOMERR and DSYM0 to DSYM63
are the classes of its input words (R64 to R69), each with the extra-bit slice `x` of the word as its operand. -/
inductive Instr where
  /-- ENCODE (R101): one evaluation of the word `dist`, written `ENC <d>` (R72). -/
  | encode (dist : Word)
  /-- BITLEN (R76): the sub-unit that drives `l` from `m`. -/
  | bitlen
  /-- SYMMAP (R84, R85): the sub-unit that drives `sym`. -/
  | symmap
  /-- EXTRACT (R92 to R96): the sub-unit that drives `ebits` and `evalue`. -/
  | extract
  /-- DOMERR (R69): the class of the illegal word `dist = 0`. -/
  | domerr
  -- DSYM0 to DSYM3 (R65): one distance each
  | dsym0
  | dsym1
  | dsym2
  | dsym3
  -- DSYM4 to DSYM63 (R66): the distances Base(s) + x, with x of l - 1 bits, l = s / 2
  | dsym4 (x : BitVec 1)
  | dsym5 (x : BitVec 1)
  | dsym6 (x : BitVec 2)
  | dsym7 (x : BitVec 2)
  | dsym8 (x : BitVec 3)
  | dsym9 (x : BitVec 3)
  | dsym10 (x : BitVec 4)
  | dsym11 (x : BitVec 4)
  | dsym12 (x : BitVec 5)
  | dsym13 (x : BitVec 5)
  | dsym14 (x : BitVec 6)
  | dsym15 (x : BitVec 6)
  | dsym16 (x : BitVec 7)
  | dsym17 (x : BitVec 7)
  | dsym18 (x : BitVec 8)
  | dsym19 (x : BitVec 8)
  | dsym20 (x : BitVec 9)
  | dsym21 (x : BitVec 9)
  | dsym22 (x : BitVec 10)
  | dsym23 (x : BitVec 10)
  | dsym24 (x : BitVec 11)
  | dsym25 (x : BitVec 11)
  | dsym26 (x : BitVec 12)
  | dsym27 (x : BitVec 12)
  | dsym28 (x : BitVec 13)
  | dsym29 (x : BitVec 13)
  | dsym30 (x : BitVec 14)
  | dsym31 (x : BitVec 14)
  | dsym32 (x : BitVec 15)
  | dsym33 (x : BitVec 15)
  | dsym34 (x : BitVec 16)
  | dsym35 (x : BitVec 16)
  | dsym36 (x : BitVec 17)
  | dsym37 (x : BitVec 17)
  | dsym38 (x : BitVec 18)
  | dsym39 (x : BitVec 18)
  | dsym40 (x : BitVec 19)
  | dsym41 (x : BitVec 19)
  | dsym42 (x : BitVec 20)
  | dsym43 (x : BitVec 20)
  | dsym44 (x : BitVec 21)
  | dsym45 (x : BitVec 21)
  | dsym46 (x : BitVec 22)
  | dsym47 (x : BitVec 22)
  | dsym48 (x : BitVec 23)
  | dsym49 (x : BitVec 23)
  | dsym50 (x : BitVec 24)
  | dsym51 (x : BitVec 24)
  | dsym52 (x : BitVec 25)
  | dsym53 (x : BitVec 25)
  | dsym54 (x : BitVec 26)
  | dsym55 (x : BitVec 26)
  | dsym56 (x : BitVec 27)
  | dsym57 (x : BitVec 27)
  | dsym58 (x : BitVec 28)
  | dsym59 (x : BitVec 28)
  | dsym60 (x : BitVec 29)
  | dsym61 (x : BitVec 29)
  | dsym62 (x : BitVec 30)
  | dsym63 (x : BitVec 30)
deriving DecidableEq, Repr

/-- The class number `s` and the extra-bit slice `x` of a class row, and none for the other rows (R65, R66). -/
def Instr.classOf : Instr → Option (Nat × Nat)
  | .encode _ => none
  | .bitlen => none
  | .symmap => none
  | .extract => none
  | .domerr => none
  | .dsym0 => some (0, 0)
  | .dsym1 => some (1, 0)
  | .dsym2 => some (2, 0)
  | .dsym3 => some (3, 0)
  | .dsym4 x => some (4, x.toNat)
  | .dsym5 x => some (5, x.toNat)
  | .dsym6 x => some (6, x.toNat)
  | .dsym7 x => some (7, x.toNat)
  | .dsym8 x => some (8, x.toNat)
  | .dsym9 x => some (9, x.toNat)
  | .dsym10 x => some (10, x.toNat)
  | .dsym11 x => some (11, x.toNat)
  | .dsym12 x => some (12, x.toNat)
  | .dsym13 x => some (13, x.toNat)
  | .dsym14 x => some (14, x.toNat)
  | .dsym15 x => some (15, x.toNat)
  | .dsym16 x => some (16, x.toNat)
  | .dsym17 x => some (17, x.toNat)
  | .dsym18 x => some (18, x.toNat)
  | .dsym19 x => some (19, x.toNat)
  | .dsym20 x => some (20, x.toNat)
  | .dsym21 x => some (21, x.toNat)
  | .dsym22 x => some (22, x.toNat)
  | .dsym23 x => some (23, x.toNat)
  | .dsym24 x => some (24, x.toNat)
  | .dsym25 x => some (25, x.toNat)
  | .dsym26 x => some (26, x.toNat)
  | .dsym27 x => some (27, x.toNat)
  | .dsym28 x => some (28, x.toNat)
  | .dsym29 x => some (29, x.toNat)
  | .dsym30 x => some (30, x.toNat)
  | .dsym31 x => some (31, x.toNat)
  | .dsym32 x => some (32, x.toNat)
  | .dsym33 x => some (33, x.toNat)
  | .dsym34 x => some (34, x.toNat)
  | .dsym35 x => some (35, x.toNat)
  | .dsym36 x => some (36, x.toNat)
  | .dsym37 x => some (37, x.toNat)
  | .dsym38 x => some (38, x.toNat)
  | .dsym39 x => some (39, x.toNat)
  | .dsym40 x => some (40, x.toNat)
  | .dsym41 x => some (41, x.toNat)
  | .dsym42 x => some (42, x.toNat)
  | .dsym43 x => some (43, x.toNat)
  | .dsym44 x => some (44, x.toNat)
  | .dsym45 x => some (45, x.toNat)
  | .dsym46 x => some (46, x.toNat)
  | .dsym47 x => some (47, x.toNat)
  | .dsym48 x => some (48, x.toNat)
  | .dsym49 x => some (49, x.toNat)
  | .dsym50 x => some (50, x.toNat)
  | .dsym51 x => some (51, x.toNat)
  | .dsym52 x => some (52, x.toNat)
  | .dsym53 x => some (53, x.toNat)
  | .dsym54 x => some (54, x.toNat)
  | .dsym55 x => some (55, x.toNat)
  | .dsym56 x => some (56, x.toNat)
  | .dsym57 x => some (57, x.toNat)
  | .dsym58 x => some (58, x.toNat)
  | .dsym59 x => some (59, x.toNat)
  | .dsym60 x => some (60, x.toNat)
  | .dsym61 x => some (61, x.toNat)
  | .dsym62 x => some (62, x.toNat)
  | .dsym63 x => some (63, x.toNat)

end Sys2Proof
end

