-- ==== Sys2Proof/WellFormed.lean ====
section
/-! DEFINITION. Which instructions a build of a given `DIST_W` has: those whose input word its port can carry. -/

namespace Sys2Proof

/-- Whether the port can carry the word `d` (R10, R29): `d <= MAX_DIST`, or 0. -/
def onPort (W : DistW) (d : Nat) : Bool := decide (d < 2 ^ W.val)

/-- Whether the port can carry the distance of slice `x` in class `n` (R67): the classes reached are 0 to `2*DIST_W - 1`,
and the last of them is cut short by its last distance. -/
def classOnPort (W : DistW) (n x : Nat) : Bool :=
  decide (n < 2 * W.val) && !(decide (n = 2 * W.val - 1) && decide (x = 2 ^ (W.val - 2) - 1))

/-- A well-formed instruction of a build: its input word is one its port can carry (R67). The sub-units have no word. -/
def Instr.wf (W : DistW) : Instr → Bool
  | .encode d => onPort W d.toNat
  | .bitlen => true
  | .symmap => true
  | .extract => true
  | .domerr => true
  | .dsym0 => classOnPort W 0 0
  | .dsym1 => classOnPort W 1 0
  | .dsym2 => classOnPort W 2 0
  | .dsym3 => classOnPort W 3 0
  | .dsym4 x => classOnPort W 4 x.toNat
  | .dsym5 x => classOnPort W 5 x.toNat
  | .dsym6 x => classOnPort W 6 x.toNat
  | .dsym7 x => classOnPort W 7 x.toNat
  | .dsym8 x => classOnPort W 8 x.toNat
  | .dsym9 x => classOnPort W 9 x.toNat
  | .dsym10 x => classOnPort W 10 x.toNat
  | .dsym11 x => classOnPort W 11 x.toNat
  | .dsym12 x => classOnPort W 12 x.toNat
  | .dsym13 x => classOnPort W 13 x.toNat
  | .dsym14 x => classOnPort W 14 x.toNat
  | .dsym15 x => classOnPort W 15 x.toNat
  | .dsym16 x => classOnPort W 16 x.toNat
  | .dsym17 x => classOnPort W 17 x.toNat
  | .dsym18 x => classOnPort W 18 x.toNat
  | .dsym19 x => classOnPort W 19 x.toNat
  | .dsym20 x => classOnPort W 20 x.toNat
  | .dsym21 x => classOnPort W 21 x.toNat
  | .dsym22 x => classOnPort W 22 x.toNat
  | .dsym23 x => classOnPort W 23 x.toNat
  | .dsym24 x => classOnPort W 24 x.toNat
  | .dsym25 x => classOnPort W 25 x.toNat
  | .dsym26 x => classOnPort W 26 x.toNat
  | .dsym27 x => classOnPort W 27 x.toNat
  | .dsym28 x => classOnPort W 28 x.toNat
  | .dsym29 x => classOnPort W 29 x.toNat
  | .dsym30 x => classOnPort W 30 x.toNat
  | .dsym31 x => classOnPort W 31 x.toNat
  | .dsym32 x => classOnPort W 32 x.toNat
  | .dsym33 x => classOnPort W 33 x.toNat
  | .dsym34 x => classOnPort W 34 x.toNat
  | .dsym35 x => classOnPort W 35 x.toNat
  | .dsym36 x => classOnPort W 36 x.toNat
  | .dsym37 x => classOnPort W 37 x.toNat
  | .dsym38 x => classOnPort W 38 x.toNat
  | .dsym39 x => classOnPort W 39 x.toNat
  | .dsym40 x => classOnPort W 40 x.toNat
  | .dsym41 x => classOnPort W 41 x.toNat
  | .dsym42 x => classOnPort W 42 x.toNat
  | .dsym43 x => classOnPort W 43 x.toNat
  | .dsym44 x => classOnPort W 44 x.toNat
  | .dsym45 x => classOnPort W 45 x.toNat
  | .dsym46 x => classOnPort W 46 x.toNat
  | .dsym47 x => classOnPort W 47 x.toNat
  | .dsym48 x => classOnPort W 48 x.toNat
  | .dsym49 x => classOnPort W 49 x.toNat
  | .dsym50 x => classOnPort W 50 x.toNat
  | .dsym51 x => classOnPort W 51 x.toNat
  | .dsym52 x => classOnPort W 52 x.toNat
  | .dsym53 x => classOnPort W 53 x.toNat
  | .dsym54 x => classOnPort W 54 x.toNat
  | .dsym55 x => classOnPort W 55 x.toNat
  | .dsym56 x => classOnPort W 56 x.toNat
  | .dsym57 x => classOnPort W 57 x.toNat
  | .dsym58 x => classOnPort W 58 x.toNat
  | .dsym59 x => classOnPort W 59 x.toNat
  | .dsym60 x => classOnPort W 60 x.toNat
  | .dsym61 x => classOnPort W 61 x.toNat
  | .dsym62 x => classOnPort W 62 x.toNat
  | .dsym63 x => classOnPort W 63 x.toNat

end Sys2Proof
end

