-- ==== Sys2Proof/Decode.lean ====
section
/-! DEFINITION. The class decode of the input word (R64 to R67): a total decoder that rejects by name, and the encoder
from the same table. -/

namespace Sys2Proof

/-- Why a word is no instruction of a build. -/
inductive DecodeError where
  /-- The `DIST_W`-bit port cannot carry the word (R10, R29). -/
  | wordNotOnPort
  /-- No row of the class table matches. No word of the port meets this (R64). -/
  | noClassMatches
deriving DecidableEq, Repr

/-- The decoder's answer. -/
inductive Decoded where
  | instr (i : Instr)
  | rejected (e : DecodeError)
deriving DecidableEq, Repr

/-- One row of the class table: the word `m` is in the row's class exactly when `m &&& mask = pattern`, and then stands
for `instr m` (R64). -/
structure ClassRow where
  mask : Word
  pattern : Word
  instr : Word → Instr

/-- Rows DSYM0 to DSYM3: the mask is every bit (R65). -/
def smallRows : List ClassRow :=
  [⟨0xFFFFFFFF, 0x00000000, fun _ => .dsym0⟩,
   ⟨0xFFFFFFFF, 0x00000001, fun _ => .dsym1⟩,
   ⟨0xFFFFFFFF, 0x00000002, fun _ => .dsym2⟩,
   ⟨0xFFFFFFFF, 0x00000003, fun _ => .dsym3⟩]

/-- Rows DSYM4 to DSYM15: bits `l-1` and up are fixed, `m[l-2:0]` is the operand (R66). -/
def logRows1 : List ClassRow :=
  [⟨0xFFFFFFFE, 0x00000004, fun m => .dsym4 (m.setWidth 1)⟩,
   ⟨0xFFFFFFFE, 0x00000006, fun m => .dsym5 (m.setWidth 1)⟩,
   ⟨0xFFFFFFFC, 0x00000008, fun m => .dsym6 (m.setWidth 2)⟩,
   ⟨0xFFFFFFFC, 0x0000000C, fun m => .dsym7 (m.setWidth 2)⟩,
   ⟨0xFFFFFFF8, 0x00000010, fun m => .dsym8 (m.setWidth 3)⟩,
   ⟨0xFFFFFFF8, 0x00000018, fun m => .dsym9 (m.setWidth 3)⟩,
   ⟨0xFFFFFFF0, 0x00000020, fun m => .dsym10 (m.setWidth 4)⟩,
   ⟨0xFFFFFFF0, 0x00000030, fun m => .dsym11 (m.setWidth 4)⟩,
   ⟨0xFFFFFFE0, 0x00000040, fun m => .dsym12 (m.setWidth 5)⟩,
   ⟨0xFFFFFFE0, 0x00000060, fun m => .dsym13 (m.setWidth 5)⟩,
   ⟨0xFFFFFFC0, 0x00000080, fun m => .dsym14 (m.setWidth 6)⟩,
   ⟨0xFFFFFFC0, 0x000000C0, fun m => .dsym15 (m.setWidth 6)⟩]

/-- Rows DSYM16 to DSYM27: bits `l-1` and up are fixed, `m[l-2:0]` is the operand (R66). -/
def logRows2 : List ClassRow :=
  [⟨0xFFFFFF80, 0x00000100, fun m => .dsym16 (m.setWidth 7)⟩,
   ⟨0xFFFFFF80, 0x00000180, fun m => .dsym17 (m.setWidth 7)⟩,
   ⟨0xFFFFFF00, 0x00000200, fun m => .dsym18 (m.setWidth 8)⟩,
   ⟨0xFFFFFF00, 0x00000300, fun m => .dsym19 (m.setWidth 8)⟩,
   ⟨0xFFFFFE00, 0x00000400, fun m => .dsym20 (m.setWidth 9)⟩,
   ⟨0xFFFFFE00, 0x00000600, fun m => .dsym21 (m.setWidth 9)⟩,
   ⟨0xFFFFFC00, 0x00000800, fun m => .dsym22 (m.setWidth 10)⟩,
   ⟨0xFFFFFC00, 0x00000C00, fun m => .dsym23 (m.setWidth 10)⟩,
   ⟨0xFFFFF800, 0x00001000, fun m => .dsym24 (m.setWidth 11)⟩,
   ⟨0xFFFFF800, 0x00001800, fun m => .dsym25 (m.setWidth 11)⟩,
   ⟨0xFFFFF000, 0x00002000, fun m => .dsym26 (m.setWidth 12)⟩,
   ⟨0xFFFFF000, 0x00003000, fun m => .dsym27 (m.setWidth 12)⟩]

/-- Rows DSYM28 to DSYM39: bits `l-1` and up are fixed, `m[l-2:0]` is the operand (R66). -/
def logRows3 : List ClassRow :=
  [⟨0xFFFFE000, 0x00004000, fun m => .dsym28 (m.setWidth 13)⟩,
   ⟨0xFFFFE000, 0x00006000, fun m => .dsym29 (m.setWidth 13)⟩,
   ⟨0xFFFFC000, 0x00008000, fun m => .dsym30 (m.setWidth 14)⟩,
   ⟨0xFFFFC000, 0x0000C000, fun m => .dsym31 (m.setWidth 14)⟩,
   ⟨0xFFFF8000, 0x00010000, fun m => .dsym32 (m.setWidth 15)⟩,
   ⟨0xFFFF8000, 0x00018000, fun m => .dsym33 (m.setWidth 15)⟩,
   ⟨0xFFFF0000, 0x00020000, fun m => .dsym34 (m.setWidth 16)⟩,
   ⟨0xFFFF0000, 0x00030000, fun m => .dsym35 (m.setWidth 16)⟩,
   ⟨0xFFFE0000, 0x00040000, fun m => .dsym36 (m.setWidth 17)⟩,
   ⟨0xFFFE0000, 0x00060000, fun m => .dsym37 (m.setWidth 17)⟩,
   ⟨0xFFFC0000, 0x00080000, fun m => .dsym38 (m.setWidth 18)⟩,
   ⟨0xFFFC0000, 0x000C0000, fun m => .dsym39 (m.setWidth 18)⟩]

/-- Rows DSYM40 to DSYM51: bits `l-1` and up are fixed, `m[l-2:0]` is the operand (R66). -/
def logRows4 : List ClassRow :=
  [⟨0xFFF80000, 0x00100000, fun m => .dsym40 (m.setWidth 19)⟩,
   ⟨0xFFF80000, 0x00180000, fun m => .dsym41 (m.setWidth 19)⟩,
   ⟨0xFFF00000, 0x00200000, fun m => .dsym42 (m.setWidth 20)⟩,
   ⟨0xFFF00000, 0x00300000, fun m => .dsym43 (m.setWidth 20)⟩,
   ⟨0xFFE00000, 0x00400000, fun m => .dsym44 (m.setWidth 21)⟩,
   ⟨0xFFE00000, 0x00600000, fun m => .dsym45 (m.setWidth 21)⟩,
   ⟨0xFFC00000, 0x00800000, fun m => .dsym46 (m.setWidth 22)⟩,
   ⟨0xFFC00000, 0x00C00000, fun m => .dsym47 (m.setWidth 22)⟩,
   ⟨0xFF800000, 0x01000000, fun m => .dsym48 (m.setWidth 23)⟩,
   ⟨0xFF800000, 0x01800000, fun m => .dsym49 (m.setWidth 23)⟩,
   ⟨0xFF000000, 0x02000000, fun m => .dsym50 (m.setWidth 24)⟩,
   ⟨0xFF000000, 0x03000000, fun m => .dsym51 (m.setWidth 24)⟩]

/-- Rows DSYM52 to DSYM63: bits `l-1` and up are fixed, `m[l-2:0]` is the operand (R66). -/
def logRows5 : List ClassRow :=
  [⟨0xFE000000, 0x04000000, fun m => .dsym52 (m.setWidth 25)⟩,
   ⟨0xFE000000, 0x06000000, fun m => .dsym53 (m.setWidth 25)⟩,
   ⟨0xFC000000, 0x08000000, fun m => .dsym54 (m.setWidth 26)⟩,
   ⟨0xFC000000, 0x0C000000, fun m => .dsym55 (m.setWidth 26)⟩,
   ⟨0xF8000000, 0x10000000, fun m => .dsym56 (m.setWidth 27)⟩,
   ⟨0xF8000000, 0x18000000, fun m => .dsym57 (m.setWidth 27)⟩,
   ⟨0xF0000000, 0x20000000, fun m => .dsym58 (m.setWidth 28)⟩,
   ⟨0xF0000000, 0x30000000, fun m => .dsym59 (m.setWidth 28)⟩,
   ⟨0xE0000000, 0x40000000, fun m => .dsym60 (m.setWidth 29)⟩,
   ⟨0xE0000000, 0x60000000, fun m => .dsym61 (m.setWidth 29)⟩,
   ⟨0xC0000000, 0x80000000, fun m => .dsym62 (m.setWidth 30)⟩,
   ⟨0xC0000000, 0xC0000000, fun m => .dsym63 (m.setWidth 30)⟩]

/-- The class table, DSYM0 to DSYM63 in order (R64, R67). -/
def classRows : List ClassRow :=
  smallRows ++ logRows1 ++ logRows2 ++ logRows3 ++ logRows4 ++ logRows5

/-- The class of a word `m = dist - 1`: the first row that matches (R64). -/
def decodeClass (m : Word) : Option Instr :=
  (classRows.find? fun row => m &&& row.mask == row.pattern).map fun row => row.instr m

/-- The decoder (R64): `dist = 0` is tested first and is DOMERR, and every other word is matched against the symbol
classes by `m = dist - 1`. -/
def decode (W : DistW) (dist : Word) : Decoded :=
  if onPort W dist.toNat = false then .rejected .wordNotOnPort
  else if dist = 0 then .instr .domerr
  else
    match decodeClass (dist - 1) with
    | some i => .instr i
    | none => .rejected .noClassMatches

/-- The input word of an instruction, and none for the sub-units, which have no encoding (R75, R76). A class word is
`m + 1`, with `m` the row's pattern and the slice `x` in its low bits (R65, R66). -/
def encode : Instr → Option Word
  | .encode d => some d
  | .bitlen => none
  | .symmap => none
  | .extract => none
  | .domerr => some 0
  | .dsym0 => some (0x00000000 + 1)
  | .dsym1 => some (0x00000001 + 1)
  | .dsym2 => some (0x00000002 + 1)
  | .dsym3 => some (0x00000003 + 1)
  | .dsym4 x => some ((0x00000004 ||| x.setWidth 32) + 1)
  | .dsym5 x => some ((0x00000006 ||| x.setWidth 32) + 1)
  | .dsym6 x => some ((0x00000008 ||| x.setWidth 32) + 1)
  | .dsym7 x => some ((0x0000000C ||| x.setWidth 32) + 1)
  | .dsym8 x => some ((0x00000010 ||| x.setWidth 32) + 1)
  | .dsym9 x => some ((0x00000018 ||| x.setWidth 32) + 1)
  | .dsym10 x => some ((0x00000020 ||| x.setWidth 32) + 1)
  | .dsym11 x => some ((0x00000030 ||| x.setWidth 32) + 1)
  | .dsym12 x => some ((0x00000040 ||| x.setWidth 32) + 1)
  | .dsym13 x => some ((0x00000060 ||| x.setWidth 32) + 1)
  | .dsym14 x => some ((0x00000080 ||| x.setWidth 32) + 1)
  | .dsym15 x => some ((0x000000C0 ||| x.setWidth 32) + 1)
  | .dsym16 x => some ((0x00000100 ||| x.setWidth 32) + 1)
  | .dsym17 x => some ((0x00000180 ||| x.setWidth 32) + 1)
  | .dsym18 x => some ((0x00000200 ||| x.setWidth 32) + 1)
  | .dsym19 x => some ((0x00000300 ||| x.setWidth 32) + 1)
  | .dsym20 x => some ((0x00000400 ||| x.setWidth 32) + 1)
  | .dsym21 x => some ((0x00000600 ||| x.setWidth 32) + 1)
  | .dsym22 x => some ((0x00000800 ||| x.setWidth 32) + 1)
  | .dsym23 x => some ((0x00000C00 ||| x.setWidth 32) + 1)
  | .dsym24 x => some ((0x00001000 ||| x.setWidth 32) + 1)
  | .dsym25 x => some ((0x00001800 ||| x.setWidth 32) + 1)
  | .dsym26 x => some ((0x00002000 ||| x.setWidth 32) + 1)
  | .dsym27 x => some ((0x00003000 ||| x.setWidth 32) + 1)
  | .dsym28 x => some ((0x00004000 ||| x.setWidth 32) + 1)
  | .dsym29 x => some ((0x00006000 ||| x.setWidth 32) + 1)
  | .dsym30 x => some ((0x00008000 ||| x.setWidth 32) + 1)
  | .dsym31 x => some ((0x0000C000 ||| x.setWidth 32) + 1)
  | .dsym32 x => some ((0x00010000 ||| x.setWidth 32) + 1)
  | .dsym33 x => some ((0x00018000 ||| x.setWidth 32) + 1)
  | .dsym34 x => some ((0x00020000 ||| x.setWidth 32) + 1)
  | .dsym35 x => some ((0x00030000 ||| x.setWidth 32) + 1)
  | .dsym36 x => some ((0x00040000 ||| x.setWidth 32) + 1)
  | .dsym37 x => some ((0x00060000 ||| x.setWidth 32) + 1)
  | .dsym38 x => some ((0x00080000 ||| x.setWidth 32) + 1)
  | .dsym39 x => some ((0x000C0000 ||| x.setWidth 32) + 1)
  | .dsym40 x => some ((0x00100000 ||| x.setWidth 32) + 1)
  | .dsym41 x => some ((0x00180000 ||| x.setWidth 32) + 1)
  | .dsym42 x => some ((0x00200000 ||| x.setWidth 32) + 1)
  | .dsym43 x => some ((0x00300000 ||| x.setWidth 32) + 1)
  | .dsym44 x => some ((0x00400000 ||| x.setWidth 32) + 1)
  | .dsym45 x => some ((0x00600000 ||| x.setWidth 32) + 1)
  | .dsym46 x => some ((0x00800000 ||| x.setWidth 32) + 1)
  | .dsym47 x => some ((0x00C00000 ||| x.setWidth 32) + 1)
  | .dsym48 x => some ((0x01000000 ||| x.setWidth 32) + 1)
  | .dsym49 x => some ((0x01800000 ||| x.setWidth 32) + 1)
  | .dsym50 x => some ((0x02000000 ||| x.setWidth 32) + 1)
  | .dsym51 x => some ((0x03000000 ||| x.setWidth 32) + 1)
  | .dsym52 x => some ((0x04000000 ||| x.setWidth 32) + 1)
  | .dsym53 x => some ((0x06000000 ||| x.setWidth 32) + 1)
  | .dsym54 x => some ((0x08000000 ||| x.setWidth 32) + 1)
  | .dsym55 x => some ((0x0C000000 ||| x.setWidth 32) + 1)
  | .dsym56 x => some ((0x10000000 ||| x.setWidth 32) + 1)
  | .dsym57 x => some ((0x18000000 ||| x.setWidth 32) + 1)
  | .dsym58 x => some ((0x20000000 ||| x.setWidth 32) + 1)
  | .dsym59 x => some ((0x30000000 ||| x.setWidth 32) + 1)
  | .dsym60 x => some ((0x40000000 ||| x.setWidth 32) + 1)
  | .dsym61 x => some ((0x60000000 ||| x.setWidth 32) + 1)
  | .dsym62 x => some ((0x80000000 ||| x.setWidth 32) + 1)
  | .dsym63 x => some ((0xC0000000 ||| x.setWidth 32) + 1)

/-- The input word whose table bits are `w`. The table numbers the bits of its DSYM rows over `zext_32(m)`, with
`m = dist - 1` (R64), so the word on the port is `w + 1`; the one word left over, `w = 2^32 - 1`, is `dist = 0` (R64's
wrap-around), the word of DOMERR (log 15). -/
def tableWord (nbits w : Nat) : Word := BitVec.ofNat 32 (w % 2 ^ nbits) + 1

/-- The instruction the decoder reads from a table word, on the widest port, which carries every row (R67). -/
def decodeTableWord (nbits w : Nat) : Option Instr :=
  match decode .extended (tableWord nbits w) with
  | .instr i => some i
  | .rejected _ => none

end Sys2Proof
end

