-- ==== Sys2Proof/Machine/Flags.lean ====
section
/-! DEFINITION. The two status flags, each a function of the `dist` of the evaluation and nothing else (R35). -/

namespace Sys2Proof.Machine

/-- `CLASSIC_MAX`, the largest distance of classic DEFLATE (R9). -/
def classicMax : Nat := 32768

/-- `dom_err`: 1 exactly when `dist = 0` (R33). -/
def domErrOf (dist : Nat) : Bool := decide (dist = 0)

/-- `ext`: 1 exactly when `dist > CLASSIC_MAX` (R34). -/
def extOf (dist : Nat) : Bool := decide (classicMax < dist)

end Sys2Proof.Machine
end

