-- ==== Sys2Proof/Machine/Operands.lean ====
section
/-! DEFINITION. The fields of the input word, exact arithmetic on natural numbers (R13): `msb`, `bitlen`, slices, the
port widths, and the derived signals `m`, `small`, `l`, `r`, `x` (R58 to R63). -/

namespace Sys2Proof.Machine

/-- `v[n-1:0]`, the low `n` bits of a number (R12). -/
def lowBits (v n : Nat) : Nat := v % 2 ^ n

/-- `v[i]`, one bit of a number (R12). -/
def bitAt (v i : Nat) : Nat := v / 2 ^ i % 2

/-- `msb(x)` for `x >= 1`: the `l` with `2^l <= x < 2^(l+1)`, `floor(log2(x))` (R14). Not used at 0. -/
def msb (x : Nat) : Nat := Nat.log2 x

/-- `clz_N(x)`: the number of zero bits above the highest set bit of an `N`-bit `x` (R14, R77). The block does not use it;
it is the other form of `msb`. -/
def clz : Nat → Nat → Nat
  | 0, _ => 0
  | n + 1, x => if bitAt x n = 1 then 0 else clz n x + 1

/-- `bitlen(x)`: the number of bits needed to write `x` (R15). -/
def bitlen (x : Nat) : Nat := if x = 0 then 0 else msb x + 1

/-- `SYM_W` (R8). -/
def symW (W : DistW) : Nat := bitlen (2 * W.val - 1)

/-- `EB_W` (R8). -/
def ebW (W : DistW) : Nat := bitlen (W.val - 2)

/-- `EV_W` (R8). -/
def evW (W : DistW) : Nat := W.val - 2

/-- `L_W` (R8). -/
def lW (W : DistW) : Nat := bitlen (W.val - 1)

/-- `MAX_DIST` (R10). -/
def maxDist (W : DistW) : Nat := 2 ^ W.val - 1

/-- A value as a port of `k` wires carries it: its low `k` bits (R12). No output of an evaluation loses a bit (R114). -/
def fitPort {n : Nat} (k : Nat) (v : BitVec n) : BitVec n := BitVec.ofNat n (v.toNat % 2 ^ k)

/-- `small = (dist < 5)` (R59). -/
def isSmall (dist : Nat) : Bool := decide (dist < 5)

/-- `r = m[l-1]`, the half-selector (R61). -/
def halfSelector (m l : Nat) : Nat := bitAt m (l - 1)

/-- `x = m[l-2:0]`, the extra-bit slice, `l - 1` bits (R62). -/
def extraSlice (m l : Nat) : Nat := lowBits m (l - 1)

/-- SYMMAP's log path, `2*l + r` (R85). -/
def logSymbol (m l : Nat) : Nat := 2 * l + halfSelector m l

/-- EXTRACT's count on the log path, `l - 1` (R93). -/
def logCount (l : Nat) : Nat := l - 1

/-- EXTRACT's value on the log path, `(dist - (1 + (1 << l))) & ((1 << (l-1)) - 1)` (R95). -/
def logValue (dist l : Nat) : Nat := (dist - (1 + (1 <<< l))) &&& ((1 <<< (l - 1)) - 1)

end Sys2Proof.Machine
end

