-- ==== Sys2Proof/Machine/Reference.lean ====
section
/-! DEFINITION. The source's three functions on numbers (R102) and the host-side reference inverse (R74, R107). The
inverse is no operation of the block; the laws are stated with it. -/

namespace Sys2Proof.Machine

/-- `distanceSymbol(dist)` for `dist >= 1` (R84, R85, R102). -/
def distanceSymbol (dist : Nat) : Nat :=
  if dist < 5 then dist - 1 else logSymbol (dist - 1) (msb (dist - 1))

/-- `extraBitCount(dist)` for `dist >= 1` (R92, R93, R102). -/
def extraBitCount (dist : Nat) : Nat :=
  if dist < 5 then 0 else logCount (msb (dist - 1))

/-- `extraBitValue(dist)` for `dist >= 1`, by the source's formula (R94, R95, R102). -/
def extraBitValue (dist : Nat) : Nat :=
  if dist < 5 then 0 else logValue dist (msb (dist - 1))

/-- `Base(s)`, the first distance of the bucket of symbol `s` (R107). -/
def base (s : Nat) : Nat :=
  if s < 4 then s + 1 else 1 + (1 <<< (s / 2)) + s % 2 * (1 <<< (s / 2 - 1))

/-- `EB(s)`, the count of extra bits of symbol `s` (R98, R107). -/
def countOfSymbol (s : Nat) : Nat := if s < 4 then 0 else s / 2 - 1

/-- `DEC(s, v) = Base(s) + v`, defined when `v < 2^EB(s)` (R107). This is the reading of R107, which names no width; the
narrower reading of 95_test_vectors.md section 2.9 is `decOnPort` (log 21). -/
def dec (s v : Nat) : Option Nat := if v < 2 ^ countOfSymbol s then some (base s + v) else none

/-- `DEC` as 95_test_vectors.md section 2.9 limits it for a build: not defined either where the result is above
`MAX_DIST` (log 21). -/
def decOnPort (W : DistW) (s v : Nat) : Option Nat := (dec s v).filter fun d => decide (d ≤ maxDist W)

end Sys2Proof.Machine
end

