-- ==== Sys2Proof/Machine/State.lean ====
section
/-! DEFINITION. The state: the build's parameters, the ports and internal signals, and the observation of a run. The
block itself stores nothing (R20, R23 to R27); what stands here is what a model must represent (10_state.md). -/

namespace Sys2Proof.Machine

/-- The reasons an evaluation, or the machine, faults. -/
inductive Fault where
  /-- DomainError, code 1 (R118): raised by ENCODE and by the class DOMERR when `dist = 0`. It is recorded in `results`
  and `faultRecord` and the machine goes on (R124, R128), so no step stops with it (log 7). Safe: the evaluation's three
  data outputs are free values. -/
  | domainError
deriving DecidableEq, Repr

/-- The reasons the machine has no meaning for an instruction. -/
inductive Refusal where
  /-- An instruction without a meaning, by its mnemonic. Raised by no arm of this model. Safe. -/
  | notModelled (mnemonic : String)
  /-- The `DIST_W`-bit port cannot carry the word (R10, R29, R67). Raised by ENCODE and the classes, and by the step for
  a word of the program. Safe: no such evaluation exists (log 13). -/
  | notOnPort
  /-- The decoder matched no class. Raised by the step for no word at all, since the classes cover every word (R64).
  Safe. -/
  | noClass
deriving DecidableEq, Repr

/-- The five output ports (R28). -/
structure OutPorts where
  /-- `sym` (R30). -/
  sym : SymBits
  /-- `ebits` (R31). -/
  ebits : CountBits
  /-- `evalue` (R32). -/
  evalue : PayloadBits
  /-- `dom_err` (R33). -/
  domErr : Bool
  /-- `ext` (R34). -/
  ext : Bool
deriving DecidableEq, Repr

/-- The internal signals (R17). Nothing outside the block observes them; they are held so that the sub-units have a
meaning (log 6). -/
@[ext]
structure Wires where
  /-- `m = dist - 1` (R58). -/
  m : Word
  /-- `small = (dist < 5)` (R59). -/
  small : Bool
  /-- `l`, BITLEN's output (R60, R75). -/
  l : PosBits
  /-- `r`, the half-selector (R61). -/
  r : Bool
  /-- `x`, the extra-bit slice (R62). -/
  x : PayloadBits
deriving DecidableEq, Repr

/-- One operation of the host. -/
inductive HostAction where
  /-- Drive a word on `dist` (none: some bit of it undefined, R140), hold it for `hold`, and sample the outputs. With a
  defined word held for `T_PD` this is one evaluation, `ENC <d>` (R21, R72, R73); held for less, the outputs have not
  settled (R141, R142). -/
  | drive (dist : Option Word) (hold : Nat)
  /-- A reset of the system around the block (R136). -/
  | systemReset
deriving DecidableEq, Repr

/-- The sampled result of one operation (R21, R72, R73). -/
inductive Sample where
  /-- `-> (sym, ebits, evalue, ext, dom_err=0)`. -/
  | ok (sym : SymBits) (ebits : CountBits) (evalue : PayloadBits) (ext : Bool)
  /-- `-> DomainError`: the fault, and no value for the data outputs (R117, R119). -/
  | fault (f : Fault)
  /-- A sample of outputs that have not settled: the spec fixes nothing of it (R140, R142; log 11). -/
  | unspecified
deriving DecidableEq, Repr

/-- The state. -/
@[ext]
structure State where
  /-- The build's parameters (R7, R11); no step changes them. -/
  cfg : Config
  /-- The `dist` port: the word driven, or none where it carries no defined word (R29, R137, R140). -/
  dist : Option Word
  /-- How long `dist` has held its word, counted up to `T_PD` (R137, R141; log 3). -/
  held : Nat
  /-- The output ports (R28). -/
  out : OutPorts
  /-- The internal signals (R17). -/
  wires : Wires
  /-- The host's operations still to come (R73). -/
  program : List HostAction
  /-- The sampled results, in program order (R73). -/
  results : List Sample
  /-- The fault record, never cleared (R128): the numbers of the operations that raised DomainError, counted from 1
  (log 20). -/
  faultRecord : List Nat
  /-- The model's own counter of free values (log 8). -/
  draws : Nat
deriving DecidableEq, Repr

/-- Power-up (R137, R39): the port carries no defined word, every output and signal is unspecified, nothing has been
presented, sampled or recorded. The extended profile and `T_PD = 1` are the model's choice (log 2, log 3). -/
def State.reset : State where
  cfg := { distW := .extended, tPd := 1 }
  dist := none
  held := 0
  out :=
    { sym := Config.freeSym 0, ebits := Config.freeEbits 0, evalue := Config.freeEvalue 0,
      domErr := Config.freeDomErr 0, ext := Config.freeExt 0 }
  wires :=
    { m := Config.freeM 0, small := Config.freeSmall 0, l := Config.freeL 0, r := Config.freeR 0,
      x := Config.freeX 0 }
  program := []
  results := []
  faultRecord := []
  draws := 1

end Sys2Proof.Machine
end

