-- ==== Sys2Proof/Machine/Ops.lean ====
section
/-! DEFINITION. The named operations over ports and signals: drawing an unspecified value, driving the input, the three
sub-units, sampling, and raising DomainError. The block has no memory and no registers (R23, R40), so no operation over
them stands here. -/

namespace Sys2Proof.Machine

/-! ### Unspecified values: the draw of the present number, as wide as the port (log 8) -/

def drawSym (s : State) : SymBits := fitPort (symW s.cfg.distW) (Config.freeSym s.draws)
def drawEbits (s : State) : CountBits := fitPort (ebW s.cfg.distW) (Config.freeEbits s.draws)
def drawEvalue (s : State) : PayloadBits := fitPort (evW s.cfg.distW) (Config.freeEvalue s.draws)
def drawDomErr (s : State) : Bool := Config.freeDomErr s.draws
def drawExt (s : State) : Bool := Config.freeExt s.draws
def drawM (s : State) : Word := fitPort s.cfg.distW.val (Config.freeM s.draws)
def drawSmall (s : State) : Bool := Config.freeSmall s.draws
def drawL (s : State) : PosBits := fitPort (lW s.cfg.distW) (Config.freeL s.draws)
def drawR (s : State) : Bool := Config.freeR s.draws
def drawX (s : State) : PayloadBits := fitPort (evW s.cfg.distW) (Config.freeX s.draws)

/-- The next operation draws afresh: an unspecified value may differ from one time to the next (R119). -/
def advanceDraws (s : State) : State := { s with draws := s.draws + 1 }

/-! ### The data path of ENCODE (R104) -/

/-- Drive a word, held until the outputs settle: the port, the signals `m` and `small` (R58, R59) and the flags (R33,
R34). -/
def driveInput (d : Word) (s : State) : State :=
  { s with
    dist := some d
    held := s.cfg.tPd
    out := { s.out with domErr := domErrOf d.toNat, ext := extOf d.toNat }
    wires := { s.wires with m := d - 1, small := isSmall d.toNat } }

/-- What BITLEN drives on `l`: `msb(m)` for `m >= 1` (R76), and an unspecified value for `m = 0` (R78). -/
def bitlenOut (s : State) : PosBits :=
  if s.wires.m = 0 then drawL s
  else fitPort (lW s.cfg.distW) (BitVec.ofNat 5 (msb s.wires.m.toNat))

/-- BITLEN drives `l` (R76). -/
def bitlenUnit (s : State) : State := { s with wires := { s.wires with l := bitlenOut s } }

/-- The half-selector `r = m[l-1]` (R61): defined on the log path, unspecified on the small path and where there is no
bit `l - 1`. -/
def selectorOut (s : State) : Bool :=
  if s.wires.small = true ∨ s.wires.l = 0 then drawR s
  else decide (halfSelector s.wires.m.toNat s.wires.l.toNat = 1)

/-- What SYMMAP drives on `sym`: `dist - 1` on the small path (R84) and `2*l + r` on the log path (R85). Unspecified
for `dist = 0` (R84, R119), for an undriven port (R137) and for signals that no evaluation makes (log 10). -/
def symmapOut (s : State) : SymBits :=
  if s.wires.small = true then
    match s.dist with
    | some d => if d = 0 then drawSym s else fitPort (symW s.cfg.distW) (BitVec.ofNat 6 (d.toNat - 1))
    | none => drawSym s
  else if s.wires.l = 0 then drawSym s
  else fitPort (symW s.cfg.distW) (BitVec.ofNat 6 (logSymbol s.wires.m.toNat s.wires.l.toNat))

/-- SYMMAP drives `r` and `sym` (R83 to R85). -/
def symmapUnit (s : State) : State :=
  { s with wires := { s.wires with r := selectorOut s }, out := { s.out with sym := symmapOut s } }

/-- The extra-bit slice `x = m[l-2:0]` (R62): defined on the log path, unspecified on the small path. -/
def sliceOut (s : State) : PayloadBits :=
  if s.wires.small = true ∨ s.wires.l = 0 then drawX s
  else fitPort (evW s.cfg.distW) (BitVec.ofNat 30 (extraSlice s.wires.m.toNat s.wires.l.toNat))

/-- Whether `dist` carries a word of the domain, `1 <= dist` (R10): the operand of the small path (R92, R94). -/
def wordInDomain (s : State) : Bool :=
  match s.dist with
  | some d => decide (d ≠ 0)
  | none => false

/-- What EXTRACT drives on `ebits`: 0 on the small path (R92) and `l - 1` on the log path (R93). Unspecified on the small
path for `dist = 0` (R119) and for an undriven port (R137, R140), and where `l - 1` would be below 0, which no evaluation
makes (log 10). -/
def countOut (s : State) : CountBits :=
  if s.wires.small = true then (if wordInDomain s = true then 0 else drawEbits s)
  else if s.wires.l = 0 then drawEbits s
  else fitPort (ebW s.cfg.distW) (BitVec.ofNat 5 (logCount s.wires.l.toNat))

/-- What EXTRACT drives on `evalue`: 0 on the small path (R94) and the source's formula on the log path (R95).
Unspecified on the small path for `dist = 0` (R119), wherever the port is undriven (R137, R140), and where the formula's
subtraction would go below 0, which no evaluation makes (log 10). -/
def valueOut (s : State) : PayloadBits :=
  if s.wires.small = true then (if wordInDomain s = true then 0 else drawEvalue s)
  else
    match s.dist with
    | some d =>
      if s.wires.l = 0 ∨ d.toNat < 1 + 2 ^ s.wires.l.toNat then drawEvalue s
      else fitPort (evW s.cfg.distW) (BitVec.ofNat 30 (logValue d.toNat s.wires.l.toNat))
    | none => drawEvalue s

/-- EXTRACT drives `x`, `ebits` and `evalue` (R91 to R96). -/
def extractUnit (s : State) : State :=
  { s with
    wires := { s.wires with x := sliceOut s }
    out := { s.out with ebits := countOut s, evalue := valueOut s } }

/-- The record of the outputs the host samples after an evaluation without a fault (R21, R72). -/
def sampleOf (o : OutPorts) : Sample := .ok o.sym o.ebits o.evalue o.ext

/-- The host samples the settled outputs: the result is added to the list of results (R73). -/
def sampleOutputs (s : State) : State :=
  advanceDraws { s with results := s.results ++ [sampleOf s.out] }

/-- A whole evaluation without a fault, given what it drives on the ports and the signals: the classes' form of
`driveInput`, the sub-units and `sampleOutputs`. -/
def completeEvaluation (d : Word) (o : OutPorts) (w : Wires) (s : State) : State :=
  sampleOutputs { s with dist := some d, held := s.cfg.tPd, out := o, wires := w }

/-! ### DomainError (R119): the one exception -/

/-- The exception code of R118: 1 for DomainError. -/
def faultCode : Fault → Nat
  | .domainError => 1

/-- The exception code the block shows, the value of `dom_err` (R118): 0 for no exception. -/
def exceptionCode (s : State) : Nat := if s.out.domErr then faultCode .domainError else 0

/-- Raise DomainError: `dom_err <- 1`, `ext <- 0`, and `sym`, `ebits`, `evalue` unspecified (R119). It saves no state,
changes no mode and transfers control nowhere (R124); the fault is recorded as the result of this operation and in the
fault record, which nothing clears (R128). The comparator gives `small = 1`; `m` is not used for `dist = 0` (R58), and
with it `l`, `r` and `x`. There is no return from it: the next evaluation drives the flags anew (R125). -/
def takeDomainError (s : State) : State :=
  { s with
    dist := some 0
    held := s.cfg.tPd
    out :=
      { sym := drawSym s, ebits := drawEbits s, evalue := drawEvalue s, domErr := true, ext := false }
    wires := { m := drawM s, small := isSmall 0, l := drawL s, r := drawR s, x := drawX s }
    results := s.results ++ [.fault .domainError]
    faultRecord := s.faultRecord ++ [s.results.length + 1]
    draws := s.draws + 1 }

/-! ### Outputs that have not settled (R137, R140, R142) -/

/-- Every output and signal is unspecified, and a sample of them says nothing: `dist` has an undefined bit (none), or has
held its word for less than `T_PD`. -/
def leaveUnsettled (dist : Option Word) (held : Nat) (s : State) : State :=
  { s with
    dist := dist
    held := held
    out :=
      { sym := drawSym s, ebits := drawEbits s, evalue := drawEvalue s, domErr := drawDomErr s, ext := drawExt s }
    wires := { m := drawM s, small := drawSmall s, l := drawL s, r := drawR s, x := drawX s }
    results := s.results ++ [.unspecified]
    draws := s.draws + 1 }

/-- A reset of the system around the block has no effect on it (R136). -/
def systemReset (s : State) : State := s

/-- How long the port has held `d` once it is held for `hold` more, counted up to `T_PD`: a word that the port already
carries has not changed (R141, R142). -/
def heldAfter (d : Word) (hold : Nat) (s : State) : Nat :=
  min s.cfg.tPd (if s.dist = some d then s.held + hold else hold)

end Sys2Proof.Machine
end

