-- ==== Sys2Proof/Machine/Encode.lean ====
section
/-! DEFINITION. ENCODE, the block's one operation (R101), and the model's top-level function of R117. -/

namespace Sys2Proof.Machine

/-- The result record of R117, at the exact widths of a build (R8). -/
structure TopRecord (W : DistW) where
  sym : BitVec (symW W)
  ebits : BitVec (ebW W)
  evalue : BitVec (evW W)
  ext : Bool
deriving DecidableEq, Repr

/-- The result of R117: the fault, without a value for any data output, or the record. -/
inductive TopResult (W : DistW) where
  | fault (f : Fault)
  | record (r : TopRecord W)
deriving DecidableEq, Repr

/-- ENCODE as one total function from a `DIST_W`-bit word (R117). -/
def encodeTop (W : DistW) (dist : BitVec W.val) : TopResult W :=
  if dist.toNat = 0 then .fault .domainError
  else
    .record
      { sym := BitVec.ofNat _ (distanceSymbol dist.toNat)
        ebits := BitVec.ofNat _ (extraBitCount dist.toNat)
        evalue := BitVec.ofNat _ (extraBitValue dist.toNat)
        ext := extOf dist.toNat }

/-- ENCODE (R101): DomainError for `dist = 0`; otherwise BITLEN, then SYMMAP and EXTRACT, which read `l` from it, and
the host samples the outputs (R104). -/
def execEncode (d : Word) (s : State) : Host.Outcome State Fault Refusal :=
  if onPort s.cfg.distW d.toNat = false then .refused .notOnPort
  else if d = 0 then .next (takeDomainError s)
  else .next (sampleOutputs (extractUnit (symmapUnit (bitlenUnit (driveInput d s)))))

end Sys2Proof.Machine
end

