-- ==== Sys2Proof/Machine/LogClasses.lean ====
section
/-! DEFINITION. The log classes DSYM4 to DSYM63: the evaluation of a distance of each bucket, with the constants of its row
of the opcode table (`base`, `l`, `r`, `ebits`, `ext`) and the extra-bit slice as the operand. -/

namespace Sys2Proof.Machine

/-- The constants of a row DSYMs. -/
structure ClassConsts where
  /-- `Base(s)` (R66). -/
  base : Nat
  /-- The symbol. -/
  sym : Nat
  /-- The position of the leading one (R63). -/
  l : Nat
  /-- The half-selector (R63). -/
  r : Bool
  /-- The count of extra bits (R93). -/
  ebits : Nat
  /-- The flag (R34). -/
  ext : Bool
deriving DecidableEq, Repr

/-- The evaluation of `dist = Base(s) + x`: the row's symbol, count and flag, and the slice `x` as the value (R85, R93,
R96). Refused where the port cannot carry the distance (R67, log 13). -/
def logClass (c : ClassConsts) (x : Nat) (s : State) : Host.Outcome State Fault Refusal :=
  if onPort s.cfg.distW (c.base + x) = false then .refused .notOnPort
  else
    .next (completeEvaluation (BitVec.ofNat 32 (c.base + x))
      { sym := BitVec.ofNat 6 c.sym, ebits := BitVec.ofNat 5 c.ebits, evalue := BitVec.ofNat 30 x, domErr := false,
        ext := c.ext }
      { m := BitVec.ofNat 32 (c.base + x - 1), small := false, l := BitVec.ofNat 5 c.l, r := c.r,
        x := BitVec.ofNat 30 x } s)

/-- DSYM4 (R66). -/
def execDsym4 (x : BitVec 1) (s : State) : Host.Outcome State Fault Refusal :=
  logClass { base := 5, sym := 4, l := 2, r := false, ebits := 1, ext := false } x.toNat s

/-- DSYM5 (R66). -/
def execDsym5 (x : BitVec 1) (s : State) : Host.Outcome State Fault Refusal :=
  logClass { base := 7, sym := 5, l := 2, r := true, ebits := 1, ext := false } x.toNat s

/-- DSYM6 (R66). -/
def execDsym6 (x : BitVec 2) (s : State) : Host.Outcome State Fault Refusal :=
  logClass { base := 9, sym := 6, l := 3, r := false, ebits := 2, ext := false } x.toNat s

/-- DSYM7 (R66). -/
def execDsym7 (x : BitVec 2) (s : State) : Host.Outcome State Fault Refusal :=
  logClass { base := 13, sym := 7, l := 3, r := true, ebits := 2, ext := false } x.toNat s

/-- DSYM8 (R66). -/
def execDsym8 (x : BitVec 3) (s : State) : Host.Outcome State Fault Refusal :=
  logClass { base := 17, sym := 8, l := 4, r := false, ebits := 3, ext := false } x.toNat s

/-- DSYM9 (R66). -/
def execDsym9 (x : BitVec 3) (s : State) : Host.Outcome State Fault Refusal :=
  logClass { base := 25, sym := 9, l := 4, r := true, ebits := 3, ext := false } x.toNat s

/-- DSYM10 (R66). -/
def execDsym10 (x : BitVec 4) (s : State) : Host.Outcome State Fault Refusal :=
  logClass { base := 33, sym := 10, l := 5, r := false, ebits := 4, ext := false } x.toNat s

/-- DSYM11 (R66). -/
def execDsym11 (x : BitVec 4) (s : State) : Host.Outcome State Fault Refusal :=
  logClass { base := 49, sym := 11, l := 5, r := true, ebits := 4, ext := false } x.toNat s

/-- DSYM12 (R66). -/
def execDsym12 (x : BitVec 5) (s : State) : Host.Outcome State Fault Refusal :=
  logClass { base := 65, sym := 12, l := 6, r := false, ebits := 5, ext := false } x.toNat s

/-- DSYM13 (R66). -/
def execDsym13 (x : BitVec 5) (s : State) : Host.Outcome State Fault Refusal :=
  logClass { base := 97, sym := 13, l := 6, r := true, ebits := 5, ext := false } x.toNat s

/-- DSYM14 (R66). -/
def execDsym14 (x : BitVec 6) (s : State) : Host.Outcome State Fault Refusal :=
  logClass { base := 129, sym := 14, l := 7, r := false, ebits := 6, ext := false } x.toNat s

/-- DSYM15 (R66). -/
def execDsym15 (x : BitVec 6) (s : State) : Host.Outcome State Fault Refusal :=
  logClass { base := 193, sym := 15, l := 7, r := true, ebits := 6, ext := false } x.toNat s

/-- DSYM16 (R66). -/
def execDsym16 (x : BitVec 7) (s : State) : Host.Outcome State Fault Refusal :=
  logClass { base := 257, sym := 16, l := 8, r := false, ebits := 7, ext := false } x.toNat s

/-- DSYM17 (R66). -/
def execDsym17 (x : BitVec 7) (s : State) : Host.Outcome State Fault Refusal :=
  logClass { base := 385, sym := 17, l := 8, r := true, ebits := 7, ext := false } x.toNat s

/-- DSYM18 (R66). -/
def execDsym18 (x : BitVec 8) (s : State) : Host.Outcome State Fault Refusal :=
  logClass { base := 513, sym := 18, l := 9, r := false, ebits := 8, ext := false } x.toNat s

/-- DSYM19 (R66). -/
def execDsym19 (x : BitVec 8) (s : State) : Host.Outcome State Fault Refusal :=
  logClass { base := 769, sym := 19, l := 9, r := true, ebits := 8, ext := false } x.toNat s

/-- DSYM20 (R66). -/
def execDsym20 (x : BitVec 9) (s : State) : Host.Outcome State Fault Refusal :=
  logClass { base := 1025, sym := 20, l := 10, r := false, ebits := 9, ext := false } x.toNat s

/-- DSYM21 (R66). -/
def execDsym21 (x : BitVec 9) (s : State) : Host.Outcome State Fault Refusal :=
  logClass { base := 1537, sym := 21, l := 10, r := true, ebits := 9, ext := false } x.toNat s

/-- DSYM22 (R66). -/
def execDsym22 (x : BitVec 10) (s : State) : Host.Outcome State Fault Refusal :=
  logClass { base := 2049, sym := 22, l := 11, r := false, ebits := 10, ext := false } x.toNat s

/-- DSYM23 (R66). -/
def execDsym23 (x : BitVec 10) (s : State) : Host.Outcome State Fault Refusal :=
  logClass { base := 3073, sym := 23, l := 11, r := true, ebits := 10, ext := false } x.toNat s

/-- DSYM24 (R66). -/
def execDsym24 (x : BitVec 11) (s : State) : Host.Outcome State Fault Refusal :=
  logClass { base := 4097, sym := 24, l := 12, r := false, ebits := 11, ext := false } x.toNat s

/-- DSYM25 (R66). -/
def execDsym25 (x : BitVec 11) (s : State) : Host.Outcome State Fault Refusal :=
  logClass { base := 6145, sym := 25, l := 12, r := true, ebits := 11, ext := false } x.toNat s

/-- DSYM26 (R66). -/
def execDsym26 (x : BitVec 12) (s : State) : Host.Outcome State Fault Refusal :=
  logClass { base := 8193, sym := 26, l := 13, r := false, ebits := 12, ext := false } x.toNat s

/-- DSYM27 (R66). -/
def execDsym27 (x : BitVec 12) (s : State) : Host.Outcome State Fault Refusal :=
  logClass { base := 12289, sym := 27, l := 13, r := true, ebits := 12, ext := false } x.toNat s

/-- DSYM28 (R66). -/
def execDsym28 (x : BitVec 13) (s : State) : Host.Outcome State Fault Refusal :=
  logClass { base := 16385, sym := 28, l := 14, r := false, ebits := 13, ext := false } x.toNat s

/-- DSYM29 (R66). -/
def execDsym29 (x : BitVec 13) (s : State) : Host.Outcome State Fault Refusal :=
  logClass { base := 24577, sym := 29, l := 14, r := true, ebits := 13, ext := false } x.toNat s

/-- DSYM30 (R66). -/
def execDsym30 (x : BitVec 14) (s : State) : Host.Outcome State Fault Refusal :=
  logClass { base := 32769, sym := 30, l := 15, r := false, ebits := 14, ext := true } x.toNat s

/-- DSYM31 (R66). -/
def execDsym31 (x : BitVec 14) (s : State) : Host.Outcome State Fault Refusal :=
  logClass { base := 49153, sym := 31, l := 15, r := true, ebits := 14, ext := true } x.toNat s

/-- DSYM32 (R66). -/
def execDsym32 (x : BitVec 15) (s : State) : Host.Outcome State Fault Refusal :=
  logClass { base := 65537, sym := 32, l := 16, r := false, ebits := 15, ext := true } x.toNat s

/-- DSYM33 (R66). -/
def execDsym33 (x : BitVec 15) (s : State) : Host.Outcome State Fault Refusal :=
  logClass { base := 98305, sym := 33, l := 16, r := true, ebits := 15, ext := true } x.toNat s

/-- DSYM34 (R66). -/
def execDsym34 (x : BitVec 16) (s : State) : Host.Outcome State Fault Refusal :=
  logClass { base := 131073, sym := 34, l := 17, r := false, ebits := 16, ext := true } x.toNat s

/-- DSYM35 (R66). -/
def execDsym35 (x : BitVec 16) (s : State) : Host.Outcome State Fault Refusal :=
  logClass { base := 196609, sym := 35, l := 17, r := true, ebits := 16, ext := true } x.toNat s

/-- DSYM36 (R66). -/
def execDsym36 (x : BitVec 17) (s : State) : Host.Outcome State Fault Refusal :=
  logClass { base := 262145, sym := 36, l := 18, r := false, ebits := 17, ext := true } x.toNat s

/-- DSYM37 (R66). -/
def execDsym37 (x : BitVec 17) (s : State) : Host.Outcome State Fault Refusal :=
  logClass { base := 393217, sym := 37, l := 18, r := true, ebits := 17, ext := true } x.toNat s

/-- DSYM38 (R66). -/
def execDsym38 (x : BitVec 18) (s : State) : Host.Outcome State Fault Refusal :=
  logClass { base := 524289, sym := 38, l := 19, r := false, ebits := 18, ext := true } x.toNat s

/-- DSYM39 (R66). -/
def execDsym39 (x : BitVec 18) (s : State) : Host.Outcome State Fault Refusal :=
  logClass { base := 786433, sym := 39, l := 19, r := true, ebits := 18, ext := true } x.toNat s

/-- DSYM40 (R66). -/
def execDsym40 (x : BitVec 19) (s : State) : Host.Outcome State Fault Refusal :=
  logClass { base := 1048577, sym := 40, l := 20, r := false, ebits := 19, ext := true } x.toNat s

/-- DSYM41 (R66). -/
def execDsym41 (x : BitVec 19) (s : State) : Host.Outcome State Fault Refusal :=
  logClass { base := 1572865, sym := 41, l := 20, r := true, ebits := 19, ext := true } x.toNat s

/-- DSYM42 (R66). -/
def execDsym42 (x : BitVec 20) (s : State) : Host.Outcome State Fault Refusal :=
  logClass { base := 2097153, sym := 42, l := 21, r := false, ebits := 20, ext := true } x.toNat s

/-- DSYM43 (R66). -/
def execDsym43 (x : BitVec 20) (s : State) : Host.Outcome State Fault Refusal :=
  logClass { base := 3145729, sym := 43, l := 21, r := true, ebits := 20, ext := true } x.toNat s

/-- DSYM44 (R66). -/
def execDsym44 (x : BitVec 21) (s : State) : Host.Outcome State Fault Refusal :=
  logClass { base := 4194305, sym := 44, l := 22, r := false, ebits := 21, ext := true } x.toNat s

/-- DSYM45 (R66). -/
def execDsym45 (x : BitVec 21) (s : State) : Host.Outcome State Fault Refusal :=
  logClass { base := 6291457, sym := 45, l := 22, r := true, ebits := 21, ext := true } x.toNat s

/-- DSYM46 (R66). -/
def execDsym46 (x : BitVec 22) (s : State) : Host.Outcome State Fault Refusal :=
  logClass { base := 8388609, sym := 46, l := 23, r := false, ebits := 22, ext := true } x.toNat s

/-- DSYM47 (R66). -/
def execDsym47 (x : BitVec 22) (s : State) : Host.Outcome State Fault Refusal :=
  logClass { base := 12582913, sym := 47, l := 23, r := true, ebits := 22, ext := true } x.toNat s

/-- DSYM48 (R66). -/
def execDsym48 (x : BitVec 23) (s : State) : Host.Outcome State Fault Refusal :=
  logClass { base := 16777217, sym := 48, l := 24, r := false, ebits := 23, ext := true } x.toNat s

/-- DSYM49 (R66). -/
def execDsym49 (x : BitVec 23) (s : State) : Host.Outcome State Fault Refusal :=
  logClass { base := 25165825, sym := 49, l := 24, r := true, ebits := 23, ext := true } x.toNat s

/-- DSYM50 (R66). -/
def execDsym50 (x : BitVec 24) (s : State) : Host.Outcome State Fault Refusal :=
  logClass { base := 33554433, sym := 50, l := 25, r := false, ebits := 24, ext := true } x.toNat s

/-- DSYM51 (R66). -/
def execDsym51 (x : BitVec 24) (s : State) : Host.Outcome State Fault Refusal :=
  logClass { base := 50331649, sym := 51, l := 25, r := true, ebits := 24, ext := true } x.toNat s

/-- DSYM52 (R66). -/
def execDsym52 (x : BitVec 25) (s : State) : Host.Outcome State Fault Refusal :=
  logClass { base := 67108865, sym := 52, l := 26, r := false, ebits := 25, ext := true } x.toNat s

/-- DSYM53 (R66). -/
def execDsym53 (x : BitVec 25) (s : State) : Host.Outcome State Fault Refusal :=
  logClass { base := 100663297, sym := 53, l := 26, r := true, ebits := 25, ext := true } x.toNat s

/-- DSYM54 (R66). -/
def execDsym54 (x : BitVec 26) (s : State) : Host.Outcome State Fault Refusal :=
  logClass { base := 134217729, sym := 54, l := 27, r := false, ebits := 26, ext := true } x.toNat s

/-- DSYM55 (R66). -/
def execDsym55 (x : BitVec 26) (s : State) : Host.Outcome State Fault Refusal :=
  logClass { base := 201326593, sym := 55, l := 27, r := true, ebits := 26, ext := true } x.toNat s

/-- DSYM56 (R66). -/
def execDsym56 (x : BitVec 27) (s : State) : Host.Outcome State Fault Refusal :=
  logClass { base := 268435457, sym := 56, l := 28, r := false, ebits := 27, ext := true } x.toNat s

/-- DSYM57 (R66). -/
def execDsym57 (x : BitVec 27) (s : State) : Host.Outcome State Fault Refusal :=
  logClass { base := 402653185, sym := 57, l := 28, r := true, ebits := 27, ext := true } x.toNat s

/-- DSYM58 (R66). -/
def execDsym58 (x : BitVec 28) (s : State) : Host.Outcome State Fault Refusal :=
  logClass { base := 536870913, sym := 58, l := 29, r := false, ebits := 28, ext := true } x.toNat s

/-- DSYM59 (R66). -/
def execDsym59 (x : BitVec 28) (s : State) : Host.Outcome State Fault Refusal :=
  logClass { base := 805306369, sym := 59, l := 29, r := true, ebits := 28, ext := true } x.toNat s

/-- DSYM60 (R66). -/
def execDsym60 (x : BitVec 29) (s : State) : Host.Outcome State Fault Refusal :=
  logClass { base := 1073741825, sym := 60, l := 30, r := false, ebits := 29, ext := true } x.toNat s

/-- DSYM61 (R66). -/
def execDsym61 (x : BitVec 29) (s : State) : Host.Outcome State Fault Refusal :=
  logClass { base := 1610612737, sym := 61, l := 30, r := true, ebits := 29, ext := true } x.toNat s

/-- DSYM62 (R66). -/
def execDsym62 (x : BitVec 30) (s : State) : Host.Outcome State Fault Refusal :=
  logClass { base := 2147483649, sym := 62, l := 31, r := false, ebits := 30, ext := true } x.toNat s

/-- DSYM63 (R66). -/
def execDsym63 (x : BitVec 30) (s : State) : Host.Outcome State Fault Refusal :=
  logClass { base := 3221225473, sym := 63, l := 31, r := true, ebits := 30, ext := true } x.toNat s

end Sys2Proof.Machine
end

