-- ==== Sys2Proof/Machine/SmallClasses.lean ====
section
/-! DEFINITION. DOMERR and the small classes DSYM0 to DSYM3: the evaluations of `dist` 0 to 4, as the class rows of the
opcode table give them. -/

namespace Sys2Proof.Machine

/-- DOMERR (R69): the evaluation of `dist = 0` raises DomainError. -/
def execDomerr (s : State) : Host.Outcome State Fault Refusal := .next (takeDomainError s)

/-- The evaluation of a distance of the small path: symbol `sym`, no extra bits, no flag (R84, R92, R94). `l` is what
BITLEN gives for `m = dist - 1`, and is ignored (R104); `r` and `x` are not defined (R61, R62). -/
def smallClass (dist sym : Nat) (l : PosBits) (s : State) : Host.Outcome State Fault Refusal :=
  .next (completeEvaluation (BitVec.ofNat 32 dist)
    { sym := BitVec.ofNat 6 sym, ebits := 0, evalue := 0, domErr := false, ext := false }
    { m := BitVec.ofNat 32 (dist - 1), small := true, l := l, r := drawR s, x := drawX s } s)

/-- DSYM0 (R65): `dist = 1`, with `m = 0`, where BITLEN's output is unspecified (R78). -/
def execDsym0 (s : State) : Host.Outcome State Fault Refusal := smallClass 1 0 (drawL s) s

/-- DSYM1 (R65): `dist = 2`. -/
def execDsym1 (s : State) : Host.Outcome State Fault Refusal := smallClass 2 1 0 s

/-- DSYM2 (R65): `dist = 3`. -/
def execDsym2 (s : State) : Host.Outcome State Fault Refusal := smallClass 3 2 1 s

/-- DSYM3 (R65): `dist = 4`. -/
def execDsym3 (s : State) : Host.Outcome State Fault Refusal := smallClass 4 3 1 s

end Sys2Proof.Machine
end

