-- ==== Sys2Proof/Machine/SubUnits.lean ====
section
/-! DEFINITION. BITLEN, SYMMAP and EXTRACT on their own: each reads its input signals and drives its outputs, and nothing
else (R75, R83, R91). They write no flag and raise no exception. -/

namespace Sys2Proof.Machine

/-- BITLEN (R76, R78). -/
def execBitlen (s : State) : Host.Outcome State Fault Refusal := .next (advanceDraws (bitlenUnit s))

/-- SYMMAP (R84, R85). -/
def execSymmap (s : State) : Host.Outcome State Fault Refusal := .next (advanceDraws (symmapUnit s))

/-- EXTRACT (R92 to R96). -/
def execExtract (s : State) : Host.Outcome State Fault Refusal := .next (advanceDraws (extractUnit s))

end Sys2Proof.Machine
end

