-- ==== Sys2Proof/Machine/Dispatch.lean ====
section
/-! DEFINITION. One arm per instruction, each one call of its meaning. -/

namespace Sys2Proof.Machine

def exec (i : Instr) (s : State) : Host.Outcome State Fault Refusal :=
  match i with
  -- the operation and its sub-units
  | .encode dist => Sys2Proof.Machine.execEncode dist s
  | .bitlen => Sys2Proof.Machine.execBitlen s
  | .symmap => Sys2Proof.Machine.execSymmap s
  | .extract => Sys2Proof.Machine.execExtract s
  -- the classes of input words
  | .domerr => Sys2Proof.Machine.execDomerr s
  | .dsym0 => Sys2Proof.Machine.execDsym0 s
  | .dsym1 => Sys2Proof.Machine.execDsym1 s
  | .dsym2 => Sys2Proof.Machine.execDsym2 s
  | .dsym3 => Sys2Proof.Machine.execDsym3 s
  | .dsym4 x => Sys2Proof.Machine.execDsym4 x s
  | .dsym5 x => Sys2Proof.Machine.execDsym5 x s
  | .dsym6 x => Sys2Proof.Machine.execDsym6 x s
  | .dsym7 x => Sys2Proof.Machine.execDsym7 x s
  | .dsym8 x => Sys2Proof.Machine.execDsym8 x s
  | .dsym9 x => Sys2Proof.Machine.execDsym9 x s
  | .dsym10 x => Sys2Proof.Machine.execDsym10 x s
  | .dsym11 x => Sys2Proof.Machine.execDsym11 x s
  | .dsym12 x => Sys2Proof.Machine.execDsym12 x s
  | .dsym13 x => Sys2Proof.Machine.execDsym13 x s
  | .dsym14 x => Sys2Proof.Machine.execDsym14 x s
  | .dsym15 x => Sys2Proof.Machine.execDsym15 x s
  | .dsym16 x => Sys2Proof.Machine.execDsym16 x s
  | .dsym17 x => Sys2Proof.Machine.execDsym17 x s
  | .dsym18 x => Sys2Proof.Machine.execDsym18 x s
  | .dsym19 x => Sys2Proof.Machine.execDsym19 x s
  | .dsym20 x => Sys2Proof.Machine.execDsym20 x s
  | .dsym21 x => Sys2Proof.Machine.execDsym21 x s
  | .dsym22 x => Sys2Proof.Machine.execDsym22 x s
  | .dsym23 x => Sys2Proof.Machine.execDsym23 x s
  | .dsym24 x => Sys2Proof.Machine.execDsym24 x s
  | .dsym25 x => Sys2Proof.Machine.execDsym25 x s
  | .dsym26 x => Sys2Proof.Machine.execDsym26 x s
  | .dsym27 x => Sys2Proof.Machine.execDsym27 x s
  | .dsym28 x => Sys2Proof.Machine.execDsym28 x s
  | .dsym29 x => Sys2Proof.Machine.execDsym29 x s
  | .dsym30 x => Sys2Proof.Machine.execDsym30 x s
  | .dsym31 x => Sys2Proof.Machine.execDsym31 x s
  | .dsym32 x => Sys2Proof.Machine.execDsym32 x s
  | .dsym33 x => Sys2Proof.Machine.execDsym33 x s
  | .dsym34 x => Sys2Proof.Machine.execDsym34 x s
  | .dsym35 x => Sys2Proof.Machine.execDsym35 x s
  | .dsym36 x => Sys2Proof.Machine.execDsym36 x s
  | .dsym37 x => Sys2Proof.Machine.execDsym37 x s
  | .dsym38 x => Sys2Proof.Machine.execDsym38 x s
  | .dsym39 x => Sys2Proof.Machine.execDsym39 x s
  | .dsym40 x => Sys2Proof.Machine.execDsym40 x s
  | .dsym41 x => Sys2Proof.Machine.execDsym41 x s
  | .dsym42 x => Sys2Proof.Machine.execDsym42 x s
  | .dsym43 x => Sys2Proof.Machine.execDsym43 x s
  | .dsym44 x => Sys2Proof.Machine.execDsym44 x s
  | .dsym45 x => Sys2Proof.Machine.execDsym45 x s
  | .dsym46 x => Sys2Proof.Machine.execDsym46 x s
  | .dsym47 x => Sys2Proof.Machine.execDsym47 x s
  | .dsym48 x => Sys2Proof.Machine.execDsym48 x s
  | .dsym49 x => Sys2Proof.Machine.execDsym49 x s
  | .dsym50 x => Sys2Proof.Machine.execDsym50 x s
  | .dsym51 x => Sys2Proof.Machine.execDsym51 x s
  | .dsym52 x => Sys2Proof.Machine.execDsym52 x s
  | .dsym53 x => Sys2Proof.Machine.execDsym53 x s
  | .dsym54 x => Sys2Proof.Machine.execDsym54 x s
  | .dsym55 x => Sys2Proof.Machine.execDsym55 x s
  | .dsym56 x => Sys2Proof.Machine.execDsym56 x s
  | .dsym57 x => Sys2Proof.Machine.execDsym57 x s
  | .dsym58 x => Sys2Proof.Machine.execDsym58 x s
  | .dsym59 x => Sys2Proof.Machine.execDsym59 x s
  | .dsym60 x => Sys2Proof.Machine.execDsym60 x s
  | .dsym61 x => Sys2Proof.Machine.execDsym61 x s
  | .dsym62 x => Sys2Proof.Machine.execDsym62 x s
  | .dsym63 x => Sys2Proof.Machine.execDsym63 x s

end Sys2Proof.Machine
end

