-- ==== Sys2Proof/Machine/Present.lean ====
section
/-! DEFINITION. What one operation of the host does: present a word and sample, sample too early, drive an undefined bit,
or reset the system around the block. -/

namespace Sys2Proof.Machine

/-- Decode a settled word and run its instruction (R64, R101). -/
def runWord (d : Word) (s : State) : Host.Outcome State Fault Refusal :=
  match decode s.cfg.distW d with
  | .instr i => exec i s
  | .rejected .wordNotOnPort => .refused .notOnPort
  | .rejected .noClassMatches => .refused .noClass

/-- One operation of the host (R73): a defined word held for `T_PD` is evaluated (R141); one held for less leaves the
outputs unsettled (R142), as does an undefined bit (R140); a system reset has no effect on the block (R136). -/
def present (a : HostAction) (s : State) : Host.Outcome State Fault Refusal :=
  match a with
  | .drive (some d) hold =>
    if s.cfg.tPd ≤ heldAfter d hold s then runWord d s
    else if onPort s.cfg.distW d.toNat = false then .refused .notOnPort
    else .next (leaveUnsettled (some d) (heldAfter d hold s) s)
  | .drive none _ => .next (leaveUnsettled none 0 s)
  | .systemReset => .next (systemReset s)

/-- The host has nothing left to present: it leaves the port as it is, and nothing changes (R106; log 12). -/
def idle (s : State) : State := s

/-- Take the first of the host's operations and carry it out. -/
def stepProgram (s : State) : Host.Outcome State Fault Refusal :=
  match s.program with
  | [] => .next (idle s)
  | a :: rest => present a { s with program := rest }

/-- Place a word as the host's next operation, held for `T_PD`. -/
def placeWord (d : Word) (s : State) : State :=
  { s with program := .drive (some d) s.cfg.tPd :: s.program.tail }

end Sys2Proof.Machine
end

