-- ==== Sys2Proof/Machine/Step.lean ====
section
/-! DEFINITION. The step: one operation of the host and the block's answer to it (R21, R73). -/

namespace Sys2Proof.Machine

/-- One step. -/
def step (s : State) : Host.Outcome State Fault Refusal := stepProgram s

/-- The state with a table word as the next operation of the host, held for `T_PD`, so that the next step evaluates
exactly it (log 15, log 16). -/
def State.withFetchWord (s : State) (nbits w : Nat) : State := placeWord (tableWord nbits w) s

end Sys2Proof.Machine
end

