-- ==== Sys2Proof/Safety.lean ====
section
/-! DEFINITION. The terms the claims are stated in: what an evaluation leaves, when the outputs have settled, what a sample
should be, and the invariant of the machine. -/

namespace Sys2Proof.Machine

/-- The state after an evaluation of `d` without a fault that drives the outputs `o` and the internal signals `w`: the
result is sampled, and nothing else changes (R73, R106). -/
def evaluatedState (d : Word) (o : OutPorts) (w : Wires) (s : State) : State :=
  { s with
    dist := some d
    held := s.cfg.tPd
    out := o
    wires := w
    results := s.results ++ [.ok o.sym o.ebits o.evalue o.ext]
    draws := s.draws + 1 }

/-- The state after an evaluation of `dist = 0`: `dom_err = 1`, `ext = 0`, some values `y`, `b`, `v` on the data outputs
and `w` on the internal signals, and the fault recorded (R119, R128). -/
def domainErrorState (y : SymBits) (b : CountBits) (v : PayloadBits) (w : Wires) (s : State) : State :=
  { s with
    dist := some 0
    held := s.cfg.tPd
    out := { sym := y, ebits := b, evalue := v, domErr := true, ext := false }
    wires := w
    results := s.results ++ [.fault .domainError]
    faultRecord := s.faultRecord ++ [s.results.length + 1]
    draws := s.draws + 1 }

/-- The state after a sample of outputs that have not settled: some values `o` on the outputs and `w` on the signals, and
a sample that says nothing (R140, R142). -/
def unsettledState (dist : Option Word) (held : Nat) (o : OutPorts) (w : Wires) (s : State) : State :=
  { s with
    dist := dist
    held := held
    out := o
    wires := w
    results := s.results ++ [.unspecified]
    draws := s.draws + 1 }

/-- The outputs are the function of `dist`: it has held one defined word for `T_PD` (R137, R141). -/
def State.settled (s : State) : Bool := s.dist.isSome && decide (s.cfg.tPd ≤ s.held)

/-- The five outputs of an evaluation of `dist >= 1`, by the source's three functions (R101, R102). -/
def outputsOf (dist : Nat) : OutPorts :=
  { sym := BitVec.ofNat 6 (distanceSymbol dist)
    ebits := BitVec.ofNat 5 (extraBitCount dist)
    evalue := BitVec.ofNat 30 (extraBitValue dist)
    domErr := false
    ext := extOf dist }

/-- The sampled result of one evaluation (R73). -/
def sampleOfWord (d : Word) : Sample :=
  if d = 0 then .fault .domainError
  else
    .ok (BitVec.ofNat 6 (distanceSymbol d.toNat)) (BitVec.ofNat 5 (extraBitCount d.toNat))
      (BitVec.ofNat 30 (extraBitValue d.toNat)) (extOf d.toNat)

/-- The internal signals that an evaluation of `d >= 1` defines (R58 to R62). -/
structure WiresAgree (d : Word) (w : Wires) : Prop where
  m_eq : w.m = d - 1
  small_eq : w.small = isSmall d.toNat
  l_eq : 2 ≤ d.toNat → w.l = BitVec.ofNat 5 (msb (d.toNat - 1))
  r_eq : 5 ≤ d.toNat → w.r = decide (halfSelector (d.toNat - 1) (msb (d.toNat - 1)) = 1)
  x_eq : 5 ≤ d.toNat → w.x = BitVec.ofNat 30 (extraSlice (d.toNat - 1) (msb (d.toNat - 1)))

/-- What settled outputs are, for the word `d` on the port (R33 to R35, R101, R119). -/
def OutputsAgree (d : Word) (s : State) : Prop :=
  if d = 0 then s.out.domErr = true ∧ s.out.ext = false
  else s.out = outputsOf d.toNat ∧ WiresAgree d s.wires

/-- The laws that R112 asks to hold for every distance of the domain of a build, about a function `f` from a distance to the
outputs of its evaluation. -/
structure LawsHold (W : DistW) (f : Nat → OutPorts) : Prop where
  /-- The symbol does not decrease (R88). -/
  symbol_mono : ∀ d1 d2, 1 ≤ d1 → d1 < d2 → d2 ≤ maxDist W → (f d1).sym.toNat ≤ (f d2).sym.toNat
  /-- The value is below `2^ebits`, and its bits from `ebits` up are 0 (R97). -/
  value_bound : ∀ d, 1 ≤ d → d ≤ maxDist W →
    (f d).evalue.toNat < 2 ^ (f d).ebits.toNat ∧ ∀ k, (f d).ebits.toNat ≤ k → (f d).evalue.getLsbD k = false
  /-- The reference inverse gives the distance back, and the count is that of the symbol (R108). -/
  round_trip : ∀ d, 1 ≤ d → d ≤ maxDist W →
    decOnPort W (f d).sym.toNat (f d).evalue.toNat = some d ∧ countOfSymbol (f d).sym.toNat = (f d).ebits.toNat
  /-- The count does not decrease (R109). -/
  count_mono : ∀ d1 d2, 1 ≤ d1 → d1 < d2 → d2 ≤ maxDist W → (f d1).ebits.toNat ≤ (f d2).ebits.toNat
  /-- The distances of a symbol are exactly its `2^EB(s)` consecutive ones, within the domain (R110). -/
  bucket : ∀ n, n < 2 * W.val → ∀ d, 1 ≤ d → d ≤ maxDist W →
    ((f d).sym.toNat = n ↔ base n ≤ d ∧ d ≤ base n + 2 ^ countOfSymbol n - 1)
  /-- Every bucket but the last lies in the domain, and the last is one distance short (R110). -/
  bucket_end : ∀ n, n < 2 * W.val →
    if n = 2 * W.val - 1 then base n + 2 ^ countOfSymbol n - 2 = maxDist W
    else base n + 2 ^ countOfSymbol n - 1 ≤ maxDist W

/-- The numbers, counted from `k`, of the results that are a fault (R128). -/
def faultsFrom : Nat → List Sample → List Nat
  | _, [] => []
  | k, .fault _ :: rest => k :: faultsFrom (k + 1) rest
  | k, .ok _ _ _ _ :: rest => faultsFrom (k + 1) rest
  | k, .unspecified :: rest => faultsFrom (k + 1) rest

/-- The invariant of the machine. -/
structure State.Inv (s : State) : Prop where
  /-- Every port carries a value of its width (R8, R28). -/
  dist_fits : ∀ d, s.dist = some d → d.toNat < 2 ^ s.cfg.distW.val
  sym_fits : s.out.sym.toNat < 2 ^ symW s.cfg.distW
  ebits_fits : s.out.ebits.toNat < 2 ^ ebW s.cfg.distW
  evalue_fits : s.out.evalue.toNat < 2 ^ evW s.cfg.distW
  /-- Every internal signal carries a value of its width (R58, R62, R75). -/
  m_fits : s.wires.m.toNat < 2 ^ s.cfg.distW.val
  l_fits : s.wires.l.toNat < 2 ^ lW s.cfg.distW
  x_fits : s.wires.x.toNat < 2 ^ evW s.cfg.distW
  /-- The hold time is counted up to `T_PD` (log 3). -/
  held_le : s.held ≤ s.cfg.tPd
  /-- Settled outputs are the function of the word on the port (R35, R101, R137). -/
  agrees : s.settled = true → ∀ d, s.dist = some d → OutputsAgree d s
  /-- The fault record lists exactly the results that are a fault (R128). -/
  record : s.faultRecord = faultsFrom 1 s.results

end Sys2Proof.Machine
end

