-- ==== Sys2Proof/Certificates/Slice0/Obligations.lean ====
section
/-! DEFINITION. The statements for the provers. -/

section

open Sys2Proof Sys2Proof.Machine

/-! ### The step and the reset state -/

/-- R73, R141: when the host's next operation drives a defined word for at least `T_PD` and the word decodes, the step is
the meaning of the decoded instruction, on the state without that operation. -/
def Obligations.StepRunsTheDecodedWord : Prop :=
  ∀ (s : State) (d : Word) (hold : Nat) (rest : List HostAction) (i : Instr),
    s.program = .drive (some d) hold :: rest → s.cfg.tPd ≤ hold → decode s.cfg.distW d = .instr i →
      step s = exec i { s with program := rest }

/-- The invariant holds at power-up, with no defined word on the port, outputs that have not settled, and nothing
sampled or recorded (R39, R137, and 95_test_vectors.md section 3 on the empty fault record). -/
def Obligations.InvariantHoldsAtReset : Prop :=
  State.reset.Inv ∧ State.reset.dist = none ∧ State.reset.settled = false ∧ State.reset.results = [] ∧
    State.reset.faultRecord = []

/-- Words of the class table (R65, R66, R68), written out bit by bit, decode to the class they stand for. The words are
`dist = m + 1`. -/
def Obligations.WrittenOutWordsDecodeToTheirClasses : Prop :=
  decode .classic 0b0000000000000000 = .instr .domerr ∧
  decode .classic 0b0000000000000100 = .instr .dsym3 ∧
  decode .classic 0b0000000000000110 = .instr (.dsym4 1) ∧
  decode .classic 0b0110000000000100 = .instr (.dsym29 3) ∧
  decode .extended 0b10000000000000000000000000000001 = .instr (.dsym62 0)

/-! ### ENCODE and its classes: results and completion -/

/-- R101: ENCODE completes for every word the port can carry, with the outputs of the pseudocode. The log path is stated
for the `l` that R14 defines, `2^l <= m < 2^(l+1)`. That the machine goes on after `dist = 0` is log 7, the number entered
in the fault record log 20, and the counter of free values log 8. -/
def Obligations.EncodeFollowsItsPseudocode : Prop :=
  ∀ (d : Word) (s : State), onPort s.cfg.distW d.toNat = true →
    (d.toNat = 0 → ∃ y b v w, exec (.encode d) s = .next (domainErrorState y b v w s)) ∧
    (1 ≤ d.toNat → d.toNat < 5 →
      ∃ w, exec (.encode d) s =
        .next (evaluatedState d
          { sym := BitVec.ofNat 6 (d.toNat - 1), ebits := 0, evalue := 0, domErr := false, ext := false } w s)) ∧
    (5 ≤ d.toNat → ∀ l, 2 ^ l ≤ d.toNat - 1 → d.toNat - 1 < 2 ^ (l + 1) →
      ∃ w, exec (.encode d) s =
        .next (evaluatedState d
          { sym := BitVec.ofNat 6 (2 * l + (d.toNat - 1) / 2 ^ (l - 1) % 2)
            ebits := BitVec.ofNat 5 (l - 1)
            evalue := BitVec.ofNat 30 ((d.toNat - 1) % 2 ^ (l - 1))
            domErr := false
            ext := decide (32768 < d.toNat) } w s))

/-- R102: for `dist >= 1` the three data outputs of ENCODE are the source's three functions `distanceSymbol`,
`extraBitCount` and `extraBitValue`. -/
def Obligations.EncodeServesTheThreeFunctions : Prop :=
  ∀ (d : Word) (s : State), onPort s.cfg.distW d.toNat = true → 1 ≤ d.toNat →
    ∃ w, exec (.encode d) s = .next (evaluatedState d (outputsOf d.toNat) w s) ∧
      (outputsOf d.toNat).sym.toNat = distanceSymbol d.toNat ∧
      (outputsOf d.toNat).ebits.toNat = extraBitCount d.toNat ∧
      (outputsOf d.toNat).evalue.toNat = extraBitValue d.toNat

/-- R58 to R63: ENCODE drives `m = dist - 1` and `small = (dist < 5)`, and where `small = 0` it splits `m` into the leading
one at position `l`, the half-selector `r` and the slice `x` of `l - 1` bits. -/
def Obligations.EncodeSplitsTheWordIntoItsFields : Prop :=
  ∀ (d : Word) (s : State), onPort s.cfg.distW d.toNat = true → 1 ≤ d.toNat →
    ∃ t, exec (.encode d) s = .next t ∧ t.wires.m.toNat = d.toNat - 1 ∧ (t.wires.small = true ↔ d.toNat < 5) ∧
      (t.wires.small = false →
        2 ≤ t.wires.l.toNat ∧ t.wires.x.toNat < 2 ^ (t.wires.l.toNat - 1) ∧
        t.wires.m.toNat =
          2 ^ t.wires.l.toNat + t.wires.r.toNat * 2 ^ (t.wires.l.toNat - 1) + t.wires.x.toNat)

/-- R33, R34, R118: after an evaluation `dom_err` is 1 exactly when `dist = 0`, `ext` is 1 exactly when `dist > 32768`,
whatever they were before, and the exception code is 1 for `dist = 0` and 0 otherwise. -/
def Obligations.FlagsFollowThePresentInput : Prop :=
  ∀ (d : Word) (s : State), onPort s.cfg.distW d.toNat = true →
    ∃ t, exec (.encode d) s = .next t ∧ (t.out.domErr = true ↔ d.toNat = 0) ∧ (t.out.ext = true ↔ 32768 < d.toNat) ∧
      exceptionCode t = if d.toNat = 0 then 1 else 0

/-- R119: DOMERR, and ENCODE of `dist = 0`, drive `dom_err = 1` and `ext = 0`, leave some value on each data output,
record the fault, and change neither the parameters nor the program (R124, R128). Going on after the fault is log 7, the
number entered in the fault record log 20. -/
def Obligations.ZeroDistanceRaisesDomainError : Prop :=
  ∀ s : State, ∃ y b v w,
    exec .domerr s = .next (domainErrorState y b v w s) ∧ exec (.encode 0) s = .next (domainErrorState y b v w s)

/-- R65, R84, R92, R94: DSYM0 to DSYM3 are the evaluations of distances 1 to 4: symbol `dist - 1`, no extra bits. -/
def Obligations.SmallClassesMapStraightToTheirSymbol : Prop :=
  ∀ (i : Instr) (n x : Nat) (s : State), i.classOf = some (n, x) → n < 4 →
    ∃ w, exec i s =
      .next (evaluatedState (BitVec.ofNat 32 (n + 1))
        { sym := BitVec.ofNat 6 n, ebits := 0, evalue := 0, domErr := false, ext := false } w s)

/-- R66, R85, R93, R96: each of DSYM4 to DSYM63, on every port that carries its word, is the evaluation of
`1 + 2^l + r * 2^(l-1) + x` with `l = s / 2` and `r = s % 2`: symbol `s`, `l - 1` extra bits of value `x`. -/
def Obligations.LogClassesGiveTheirRow : Prop :=
  ∀ (i : Instr) (n x : Nat) (s : State), i.classOf = some (n, x) → 4 ≤ n → i.wf s.cfg.distW = true →
    ∃ w, exec i s =
      .next (evaluatedState (BitVec.ofNat 32 (1 + 2 ^ (n / 2) + n % 2 * 2 ^ (n / 2 - 1) + x))
        { sym := BitVec.ofNat 6 n
          ebits := BitVec.ofNat 5 (n / 2 - 1)
          evalue := BitVec.ofNat 30 x
          domErr := false
          ext := decide (32768 < 1 + 2 ^ (n / 2) + n % 2 * 2 ^ (n / 2 - 1) + x) } w s)

/-- R67: a word the port cannot carry is refused by name, for ENCODE and for every class (log 13). -/
def Obligations.WordsOffThePortAreRefused : Prop :=
  ∀ (i : Instr) (s : State), i.wf s.cfg.distW = false → exec i s = .refused .notOnPort

/-! ### The sub-units -/

/-- R76, R78: BITLEN drives on `l` the position of the highest set bit of `m`, for every `m` from 1 up that the build
carries, and some value for `m = 0`; nothing else changes. -/
def Obligations.BitlenDrivesTheHighestSetBit : Prop :=
  ∀ s : State,
    (∀ l, s.wires.m.toNat < 2 ^ s.cfg.distW.val → 2 ^ l ≤ s.wires.m.toNat → s.wires.m.toNat < 2 ^ (l + 1) →
      exec .bitlen s =
        .next { s with wires := { s.wires with l := BitVec.ofNat 5 l }, draws := s.draws + 1 }) ∧
    (s.wires.m = 0 →
      ∃ l, exec .bitlen s = .next { s with wires := { s.wires with l := l }, draws := s.draws + 1 })

/-- R84: SYMMAP on the small path drives `dist - 1` on `sym`. -/
def Obligations.SymmapSmallPathDrivesDistMinusOne : Prop :=
  ∀ (s : State) (d : Word), s.wires.small = true → s.dist = some d → 1 ≤ d.toNat → d.toNat ≤ 4 →
    ∃ r, exec .symmap s =
      .next { s with
        wires := { s.wires with r := r }
        out := { s.out with sym := BitVec.ofNat 6 (d.toNat - 1) }
        draws := s.draws + 1 }

/-- R85: SYMMAP on the log path drives `r = m[l-1]` and `sym = 2*l + r`, for every `l` a build reaches there. -/
def Obligations.SymmapLogPathDrivesTwiceLPlusR : Prop :=
  ∀ s : State, s.wires.small = false → 2 ≤ s.wires.l.toNat → s.wires.l.toNat < s.cfg.distW.val →
    exec .symmap s =
      .next { s with
        wires := { s.wires with r := s.wires.m.getLsbD (s.wires.l.toNat - 1) }
        out :=
          { s.out with
            sym := BitVec.ofNat 6 (2 * s.wires.l.toNat + (s.wires.m.getLsbD (s.wires.l.toNat - 1)).toNat) }
        draws := s.draws + 1 }

/-- R92, R94: EXTRACT on the small path drives no extra bits. -/
def Obligations.ExtractSmallPathDrivesNoExtraBits : Prop :=
  ∀ (s : State) (d : Word), s.wires.small = true → s.dist = some d → 1 ≤ d.toNat → d.toNat ≤ 4 →
    ∃ x, exec .extract s =
      .next { s with
        wires := { s.wires with x := x }
        out := { s.out with ebits := 0, evalue := 0 }
        draws := s.draws + 1 }

/-- R62, R93, R95: EXTRACT on the log path drives `ebits = l - 1`, the source's formula on `evalue` and the slice
`m[l-2:0]` on `x`. -/
def Obligations.ExtractLogPathDrivesCountAndValue : Prop :=
  ∀ (s : State) (d : Word), s.wires.small = false → s.dist = some d → 2 ≤ s.wires.l.toNat →
    s.wires.l.toNat < s.cfg.distW.val → 1 + 2 ^ s.wires.l.toNat ≤ d.toNat →
    exec .extract s =
      .next { s with
        wires := { s.wires with x := BitVec.ofNat 30 (extraSlice s.wires.m.toNat s.wires.l.toNat) }
        out :=
          { s.out with
            ebits := BitVec.ofNat 5 (s.wires.l.toNat - 1)
            evalue :=
              BitVec.ofNat 30
                ((d.toNat - (1 + (1 <<< s.wires.l.toNat))) &&& ((1 <<< (s.wires.l.toNat - 1)) - 1)) }
        draws := s.draws + 1 }

/-- The frame of the sub-units (R75, R83, R91): each completes in every state and changes only the signals and ports it
drives. None writes a flag. -/
def Obligations.SubUnitsChangeOnlyWhatTheyDrive : Prop :=
  ∀ s : State,
    (∃ l, exec .bitlen s = .next { s with wires := { s.wires with l := l }, draws := s.draws + 1 }) ∧
    (∃ r y, exec .symmap s =
      .next { s with
        wires := { s.wires with r := r }, out := { s.out with sym := y }, draws := s.draws + 1 }) ∧
    (∃ x b v, exec .extract s =
      .next { s with
        wires := { s.wires with x := x }, out := { s.out with ebits := b, evalue := v }, draws := s.draws + 1 })

/-! ### Frames and the record -/

/-- R106: an evaluation (ENCODE, DOMERR or a class) writes its ports and signals and adds one result; the parameters, the
program and all earlier results stay, and the fault record gains an entry exactly when the result is a fault. -/
def Obligations.EvaluationAddsOneResultAndNothingElse : Prop :=
  ∀ (i : Instr) (s t : State), encode i ≠ none → exec i s = .next t →
    t.cfg = s.cfg ∧ t.program = s.program ∧ t.held = s.cfg.tPd ∧ t.dist = encode i ∧
    ∃ r, t.results = s.results ++ [r] ∧
      t.faultRecord = s.faultRecord ++ (if r = .fault .domainError then [s.results.length + 1] else [])

/-- R128: no step clears an entry of the fault record or a sampled result. -/
def Obligations.RecordsAreNeverCleared : Prop :=
  ∀ s t : State, step s = .next t →
    (∃ f, t.faultRecord = s.faultRecord ++ f) ∧ ∃ r, t.results = s.results ++ r

/-- R121: no other input or condition raises the exception: the fault record grows only in a step that evaluates
`dist = 0`. -/
def Obligations.OnlyZeroIsRecordedAsAFault : Prop :=
  ∀ s t : State, step s = .next t → t.faultRecord ≠ s.faultRecord →
    ∃ hold rest, s.program = .drive (some 0) hold :: rest

/-- R125: `dom_err` is not sticky: it is 0 after the step that drives a nonzero word for `T_PD`, whatever it was. -/
def Obligations.DomErrFallsAtTheNextNonzeroWord : Prop :=
  ∀ (s : State) (d : Word) (hold : Nat) (rest : List HostAction),
    s.program = .drive (some d) hold :: rest → s.cfg.tPd ≤ hold → 1 ≤ d.toNat →
    onPort s.cfg.distW d.toNat = true →
      ∃ t, step s = .next t ∧ t.out.domErr = false ∧ t.faultRecord = s.faultRecord

/-- R25, R139: no step changes `DIST_W` or `T_PD`. -/
def Obligations.NoStepChangesTheParameters : Prop :=
  ∀ s t : State, step s = .next t → t.cfg = s.cfg

/-- R121, R124: no step stops with a fault, and the only stop is a word that the port cannot carry. -/
def Obligations.TheOnlyStopIsAWordOffThePort : Prop :=
  ∀ s : State,
    (∃ t, step s = .next t) ∨
    (step s = .refused .notOnPort ∧
      ∃ d hold rest, s.program = .drive (some d) hold :: rest ∧ 2 ^ s.cfg.distW.val ≤ d.toNat)

/-! ### The host's other operations -/

/-- R141, R142: a word sampled before it has been held for `T_PD` leaves some value on every output, and the sample says
nothing: a new word held for less, and a word that the port already carries, held on but still short of `T_PD` (log 3,
log 11). -/
def Obligations.EarlySampleIsUnspecified : Prop :=
  ∀ (s : State) (d : Word) (hold : Nat) (rest : List HostAction),
    s.program = .drive (some d) hold :: rest → onPort s.cfg.distW d.toNat = true →
      (s.dist ≠ some d → hold < s.cfg.tPd →
        ∃ o w, step s = .next (unsettledState (some d) hold o w { s with program := rest })) ∧
      (s.dist = some d → s.held + hold < s.cfg.tPd →
        ∃ o w, step s = .next (unsettledState (some d) (s.held + hold) o w { s with program := rest }))

/-- R141: a word sampled too early and then held on for the rest of `T_PD` is evaluated as if it had been held from the
start. -/
def Obligations.HoldingOnSettlesTheOutputs : Prop :=
  ∀ (s : State) (d : Word) (hold : Nat) (rest : List HostAction),
    s.program = .drive (some d) hold :: rest → s.dist = some d → s.cfg.tPd ≤ s.held + hold →
    onPort s.cfg.distW d.toNat = true →
      step s = exec (.encode d) { s with program := rest }

/-- R140: a word with an undefined bit leaves some value on every output, however long it is held. -/
def Obligations.UndefinedInputIsUnspecified : Prop :=
  ∀ (s : State) (hold : Nat) (rest : List HostAction), s.program = .drive none hold :: rest →
    ∃ o w, step s = .next (unsettledState none 0 o w { s with program := rest })

/-- R136: a reset of the system around the block changes nothing but that the operation is done. -/
def Obligations.SystemResetHasNoEffect : Prop :=
  ∀ (s : State) (rest : List HostAction), s.program = .systemReset :: rest →
    step s = .next { s with program := rest }

/-! ### Encoding -/

/-- R64 to R67: for every class instruction of every build, and DOMERR, decoding its word gives it back, with every
operand at every value. -/
def Obligations.DecodeOfEncodeGivesTheClassBack : Prop :=
  ∀ (W : DistW) (i : Instr), i = .domerr ∨ i.classOf ≠ none → i.wf W = true →
    ∃ d, encode i = some d ∧ decode W d = .instr i

/-- R64: every word of the port decodes to one class, DOMERR for 0 and the class of its symbol with its extra-bit value
as operand otherwise; the class is well-formed and its word is the one decoded. -/
def Obligations.EveryWordDecodesToTheClassOfItsSymbol : Prop :=
  ∀ (W : DistW) (d : Word), onPort W d.toNat = true →
    ∃ i, decode W d = .instr i ∧ encode i = some d ∧ i.wf W = true ∧
      (d.toNat = 0 → i = .domerr) ∧
      (1 ≤ d.toNat → i.classOf = some (distanceSymbol d.toNat, extraBitValue d.toNat))

/-- R65, R66: row `s < 4` matches exactly `m = s`; row `s >= 4` has the mask and pattern of R66 and matches exactly when
`m + 1` is one of the distances `Base(s) .. Base(s) + 2^(l-1) - 1`. -/
def Obligations.ClassRowsMatchExactlyTheirDistances : Prop :=
  ∀ (n : Nat) (row : ClassRow) (m : Word), classRows[n]? = some row →
    (n < 4 → (m &&& row.mask = row.pattern ↔ m.toNat = n)) ∧
    (4 ≤ n →
      row.mask.toNat = 2 ^ 32 - 2 ^ (n / 2 - 1) ∧
      row.pattern.toNat = 2 ^ (n / 2) + n % 2 * 2 ^ (n / 2 - 1) ∧
      (m &&& row.mask = row.pattern ↔
        base n ≤ m.toNat + 1 ∧ m.toNat + 1 ≤ base n + 2 ^ (n / 2 - 1) - 1))

/-- R67: at `DIST_W` bits the distance of slice `x` of class `n` is one the port carries exactly when the class is one of
0 to `2*DIST_W - 1` and the distance is not the last of class `2*DIST_W - 1`. -/
def Obligations.ReachedClassesAreThoseOfThePort : Prop :=
  ∀ (W : DistW) (n x : Nat), x < 2 ^ countOfSymbol n →
    (classOnPort W n x = true ↔ base n + x ≤ maxDist W)

/-! ### The two descriptions of the block agree -/

/-- R64, R101: the class decode and ENCODE describe one machine: on every word of the port, in every state, the decoded
class has exactly the effect of ENCODE. -/
def Obligations.ClassDecodeAgreesWithEncode : Prop :=
  ∀ (s : State) (d : Word), onPort s.cfg.distW d.toNat = true →
    ∃ i, decode s.cfg.distW d = .instr i ∧ exec i s = exec (.encode d) s

/-- R117: ENCODE samples the fault or the record of the model's top-level function, at the exact port widths. -/
def Obligations.EncodeSamplesTheTopLevelResult : Prop :=
  ∀ (s : State) (d : BitVec s.cfg.distW.val),
    ∃ t, exec (.encode (d.setWidth 32)) s = .next t ∧
      match encodeTop s.cfg.distW d with
      | .fault f => t.results = s.results ++ [.fault f]
      | .record r =>
        t.results = s.results ++ [.ok (r.sym.setWidth 6) (r.ebits.setWidth 5) (r.evalue.setWidth 30) r.ext] ∧
        t.out.sym.toNat = r.sym.toNat ∧ t.out.ebits.toNat = r.ebits.toNat ∧
        t.out.evalue.toNat = r.evalue.toNat ∧ t.out.ext = r.ext ∧ t.out.domErr = false

/-! ### Invariants -/

/-- Every step keeps the invariant: port widths (R8), outputs that are the function of a settled input (R35, R101, R137),
and a fault record that lists exactly the faults (R128). -/
def Obligations.EveryStepKeepsTheInvariant : Prop :=
  ∀ s t : State, s.Inv → step s = .next t → t.Inv

/-- Every instruction keeps the invariant, the sub-units among them: recomputing an output of a settled evaluation gives
the same output. -/
def Obligations.EveryInstructionKeepsTheInvariant : Prop :=
  ∀ (i : Instr) (s t : State), s.Inv → exec i s = .next t → t.Inv

/-! ### Whole-machine rules -/

/-- R45, R47, R144: the outputs and the sampled result of an evaluation depend on its own `dist` alone: in any two states
of any two builds that carry the word they are the same (for `dist = 0`, the flags and the fault). -/
def Obligations.ResultsDependOnlyOnTheirOwnInput : Prop :=
  ∀ (d : Word) (s s' : State), onPort s.cfg.distW d.toNat = true → onPort s'.cfg.distW d.toNat = true →
    ∃ t t' r, exec (.encode d) s = .next t ∧ exec (.encode d) s' = .next t' ∧
      t.results = s.results ++ [r] ∧ t'.results = s'.results ++ [r] ∧
      t.out.domErr = t'.out.domErr ∧ t.out.ext = t'.out.ext ∧ (1 ≤ d.toNat → t.out = t'.out)

/-- R73: a program of evaluations, each word held for at least `T_PD`, runs to its end, and its results are those of its
words, one per word, in program order. A result of a word that raises DomainError holds no value of the data outputs. That the program stands in State is log 16,
and that the run goes on after DomainError log 7. -/
def Obligations.ProgramSamplesEachWordInOrder : Prop :=
  ∀ (ps : List (Word × Nat)) (s : State),
    (∀ p ∈ ps, onPort s.cfg.distW p.1.toNat = true ∧ s.cfg.tPd ≤ p.2) →
    s.program = ps.map (fun p => HostAction.drive (some p.1) p.2) →
      ∃ t : State, core.run ps.length s = .next t ∧ t.program = [] ∧
        t.results = s.results ++ ps.map (fun p => sampleOfWord p.1)

/-- R108: the reference inverse of the sampled symbol and value is the distance, and the count is that of the symbol. -/
def Obligations.RoundTripThroughTheReferenceInverse : Prop :=
  ∀ (d : Word) (s : State), onPort s.cfg.distW d.toNat = true → 1 ≤ d.toNat →
    ∃ t, exec (.encode d) s = .next t ∧ dec t.out.sym.toNat t.out.evalue.toNat = some d.toNat ∧
      countOfSymbol t.out.sym.toNat = t.out.ebits.toNat

/-- R107: encoding a distance that the reference inverse gives, on a port that carries it, gives back the symbol and the
value. -/
def Obligations.EncodeInvertsTheReferenceInverse : Prop :=
  ∀ (n v d : Nat) (s : State), dec n v = some d → onPort s.cfg.distW d = true →
    ∃ t, exec (.encode (BitVec.ofNat 32 d)) s = .next t ∧ t.out.sym.toNat = n ∧ t.out.evalue.toNat = v

/-! ### Laws of the three functions -/

/-- R8: the widths are the rule's functions of `DIST_W`; every port, and the signal `l`, is wide enough for every value of
every distance the build can carry; the largest distance gives the largest symbol `2*DIST_W - 1` and the largest count
`DIST_W - 2`; and the widths of the two profiles are those of the rule's table. -/
def Obligations.PortsHoldEveryOutput : Prop :=
  (∀ (W : DistW),
    (symW W = bitlen (2 * W.val - 1) ∧ ebW W = bitlen (W.val - 2) ∧ evW W = W.val - 2 ∧
      lW W = bitlen (W.val - 1)) ∧
    (∀ d, 1 ≤ d → d ≤ maxDist W →
      distanceSymbol d < 2 ^ symW W ∧ extraBitCount d < 2 ^ ebW W ∧ extraBitValue d < 2 ^ evW W ∧
        (2 ≤ d → msb (d - 1) < 2 ^ lW W)) ∧
    distanceSymbol (maxDist W) = 2 * W.val - 1 ∧ extraBitCount (maxDist W) = W.val - 2) ∧
  (symW .classic = 5 ∧ ebW .classic = 4 ∧ evW .classic = 14 ∧ lW .classic = 4) ∧
  (symW .extended = 6 ∧ ebW .extended = 5 ∧ evW .extended = 30 ∧ lW .extended = 5)

/-- R14: `msb(x)` of `x >= 1` is the unique `l` with `2^l <= x < 2^(l+1)`, and of an `N`-bit `x` it is also
`(N - 1) - clz_N(x)`. -/
def Obligations.MsbIsTheHighestSetBit : Prop :=
  ∀ x : Nat, 1 ≤ x →
    (∀ l, msb x = l ↔ 2 ^ l ≤ x ∧ x < 2 ^ (l + 1)) ∧ ∀ n, x < 2 ^ n → msb x = n - 1 - clz n x

/-- R79, R80, and the range of distances that one `l` picks in R82: the ranges of `l`, at every width and on the classic
domain. -/
def Obligations.BitPositionRanges : Prop :=
  (∀ (W : DistW) (x : Nat), 1 ≤ x → x < 2 ^ W.val → msb x ≤ W.val - 1 ∧ (4 ≤ x → 2 ≤ msb x)) ∧
  (∀ W : DistW, msb (maxDist W - 1) = W.val - 1) ∧
  (∀ d, 5 ≤ d → d ≤ 32768 → msb (d - 1) ≤ 14 ∧ (msb (d - 1) = 14 ↔ 16385 ≤ d)) ∧
  (∀ d, 32768 < d → 15 ≤ msb (d - 1)) ∧
  (∀ d, 3 ≤ d → 2 ^ msb (d - 1) + 1 ≤ d ∧ d ≤ 2 ^ (msb (d - 1) + 1))

/-- R36, R37: the classic ranges hold up to 32768, and beyond it the symbol is 30 or more and the count 14 or more. -/
def Obligations.ClassicAndExtendedRanges : Prop :=
  (∀ d, 1 ≤ d → d ≤ 32768 → distanceSymbol d ≤ 29 ∧ extraBitCount d ≤ 13 ∧ extraBitValue d < 2 ^ 13) ∧
  (distanceSymbol 32768 = 29 ∧ extraBitCount 32768 = 13 ∧ extraBitValue 32768 = 8191) ∧
  (∀ (W : DistW) (d : Nat), 32768 < d → d ≤ maxDist W →
    30 ≤ distanceSymbol d ∧ distanceSymbol d ≤ 2 * W.val - 1 ∧ 14 ≤ extraBitCount d ∧ extraBitCount d ≤ W.val - 2)

/-- R88, R109: the symbol and the count do not decrease as the distance grows. -/
def Obligations.SymbolAndCountAreMonotone : Prop :=
  ∀ d1 d2 : Nat, 1 ≤ d1 → d1 < d2 →
    distanceSymbol d1 ≤ distanceSymbol d2 ∧ extraBitCount d1 ≤ extraBitCount d2

/-- R89: the symbol steps by one exactly at the first distance of a bucket and stays otherwise; on the log path `l` and the
count step up where an even symbol starts, and `r` flips from 0 to 1 where an odd symbol starts. -/
def Obligations.SymbolStepsByOneAtEachBase : Prop :=
  ∀ d : Nat, 1 ≤ d →
    ((∃ n, d + 1 = base n) → distanceSymbol (d + 1) = distanceSymbol d + 1) ∧
    ((∀ n, d + 1 ≠ base n) → distanceSymbol (d + 1) = distanceSymbol d) ∧
    (∀ n, 4 ≤ n → d + 1 = base n →
      (n % 2 = 0 → msb d = msb (d - 1) + 1 ∧ extraBitCount (d + 1) = extraBitCount d + 1) ∧
      (n % 2 = 1 →
        extraBitCount (d + 1) = extraBitCount d ∧ halfSelector (d - 1) (msb (d - 1)) = 0 ∧
          halfSelector d (msb d) = 1))

/-- R90: from 3 on the log-path formulas give the outputs of the block; at 3 and 4, which the block takes on the small
path, `l = 1` and `sym = 2 + m[0]`. So the threshold may be 3, 4 or 5. -/
def Obligations.ThresholdMayBeThreeFourOrFive : Prop :=
  ∀ d : Nat, 3 ≤ d →
    distanceSymbol d = logSymbol (d - 1) (msb (d - 1)) ∧ extraBitCount d = logCount (msb (d - 1)) ∧
      extraBitValue d = logValue d (msb (d - 1)) ∧
      (d ≤ 4 → msb (d - 1) = 1 ∧ distanceSymbol d = 2 + bitAt (d - 1) 0 ∧ extraBitCount d = 0 ∧
        extraBitValue d = 0)

/-- R96: on the log path the source's formula is the slice `m[l-2:0]`. -/
def Obligations.ValueIsTheSliceBelowTheSelector : Prop :=
  ∀ d : Nat, 5 ≤ d → extraBitValue d = extraSlice (d - 1) (msb (d - 1))

/-- R97, R98: the value has no bit at or above the count, and the count depends on the symbol alone. -/
def Obligations.ValueFitsInItsCount : Prop :=
  ∀ (d : Word) (s : State), onPort s.cfg.distW d.toNat = true → 1 ≤ d.toNat →
    ∃ t, exec (.encode d) s = .next t ∧ t.out.evalue.toNat < 2 ^ t.out.ebits.toNat ∧
      (∀ k, t.out.ebits.toNat ≤ k → t.out.evalue.getLsbD k = false) ∧
      t.out.ebits.toNat = if t.out.sym.toNat < 4 then 0 else t.out.sym.toNat / 2 - 1

/-- R86, R100: on the log path the symbol holds `l` and `r`, and the distance is put together from them and the value. -/
def Obligations.DistanceIsSymbolPlusValue : Prop :=
  ∀ d : Nat, 5 ≤ d →
    distanceSymbol d / 2 = msb (d - 1) ∧ distanceSymbol d % 2 = halfSelector (d - 1) (msb (d - 1)) ∧
    d = 1 + 2 ^ (distanceSymbol d / 2) + distanceSymbol d % 2 * 2 ^ (distanceSymbol d / 2 - 1) + extraBitValue d

/-- R105: the four forms of the test for `ext` agree on every output of every distance. -/
def Obligations.FourFormsOfTheExtTest : Prop :=
  ∀ d : Nat, 1 ≤ d →
    (extOf d = true ↔ 32768 < d) ∧ (32768 < d ↔ (d - 1) / 2 ^ 15 ≠ 0) ∧ (32768 < d ↔ 30 ≤ distanceSymbol d) ∧
      (32768 < d ↔ 14 ≤ extraBitCount d)

/-- R110: the distances of a symbol that a build reaches are exactly `Base(s) .. Base(s) + 2^EB(s) - 1`; the bucket lies in
`1 .. MAX_DIST` except that of the last symbol, which is one distance short; the buckets of the 30 classic symbols lie in
`1 .. 32768`. -/
def Obligations.BucketsHoldTheirDistances : Prop :=
  ∀ (W : DistW) (n : Nat), n < 2 * W.val →
    (∀ d, 1 ≤ d → d ≤ maxDist W →
      (distanceSymbol d = n ↔ base n ≤ d ∧ d ≤ base n + 2 ^ countOfSymbol n - 1)) ∧
    (n ≠ 2 * W.val - 1 → base n + 2 ^ countOfSymbol n - 1 ≤ maxDist W) ∧
    (n = 2 * W.val - 1 → base n + 2 ^ countOfSymbol n - 1 = maxDist W + 1) ∧
    (n ≤ 29 → base n + 2 ^ countOfSymbol n - 1 ≤ 32768)

/-- R111: two different distances never give the same symbol and value. -/
def Obligations.SymbolAndValueDetermineTheDistance : Prop :=
  ∀ d1 d2 : Nat, 1 ≤ d1 → 1 ≤ d2 → distanceSymbol d1 = distanceSymbol d2 → extraBitValue d1 = extraBitValue d2 →
    d1 = d2

/-- R112: on every build ENCODE completes for every distance of `1 .. MAX_DIST`, and the outputs it drives have the laws of
R88, R97, R108, R109 and R110, for every distance and not only for samples. -/
def Obligations.EveryLawHoldsOverTheWholeDomain : Prop :=
  ∀ s : State, ∃ f : Nat → OutPorts,
    (∀ d, 1 ≤ d → d ≤ maxDist s.cfg.distW →
      ∃ t, exec (.encode (BitVec.ofNat 32 d)) s = .next t ∧ t.out = f d) ∧
    LawsHold s.cfg.distW f

end
end

