-- ==== Sys2Proof/Laws/Bits.lean ====
section
/-! SUPPORT. The small lemmas of the fields, the port widths and the three functions: one normal form for a distance of the
log path, from which their laws follow. -/

namespace Sys2Proof.Machine

/-! ### msb and bitlen -/

theorem msb_lower {x : Nat} (h : 1 ≤ x) : 2 ^ msb x ≤ x :=
  Nat.log2_self_le (by omega)

theorem msb_upper (x : Nat) : x < 2 ^ (msb x + 1) :=
  Nat.lt_log2_self

theorem msb_unique {x l : Nat} (lo : 2 ^ l ≤ x) (hi : x < 2 ^ (l + 1)) : msb x = l :=
  (Nat.log2_eq_iff (by have := Nat.two_pow_pos l; omega)).2 ⟨lo, hi⟩

theorem msb_lt_of_lt {x k : Nat} (h1 : 1 ≤ x) (h : x < 2 ^ k) : msb x < k :=
  (Nat.pow_lt_pow_iff_right (by decide : 1 < 2)).1 (lt_of_le_of_lt (msb_lower h1) h)

theorem lt_two_pow_bitlen (x : Nat) : x < 2 ^ bitlen x := by
  unfold bitlen
  split
  · subst x; decide
  · exact msb_upper x

/-! ### Port widths (R8): each is between its value at 16 and at 32 bits -/

theorem symW_le (W : DistW) : symW W ≤ 6 := by
  have hi := W.hi
  have lo := W.lo
  have h : msb (2 * W.val - 1) < 6 := msb_lt_of_lt (by omega) (by omega)
  unfold symW bitlen
  split <;> omega

theorem ebW_le (W : DistW) : ebW W ≤ 5 := by
  have hi := W.hi
  have lo := W.lo
  have h : msb (W.val - 2) < 5 := msb_lt_of_lt (by omega) (by omega)
  unfold ebW bitlen
  split <;> omega

theorem lW_le (W : DistW) : lW W ≤ 5 := by
  have hi := W.hi
  have lo := W.lo
  have h : msb (W.val - 1) < 5 := msb_lt_of_lt (by omega) (by omega)
  unfold lW bitlen
  split <;> omega

theorem evW_le (W : DistW) : evW W ≤ 30 := by
  have hi := W.hi
  unfold evW; omega

theorem lt_symW {W : DistW} {v : Nat} (h : v ≤ 2 * W.val - 1) : v < 2 ^ symW W :=
  lt_of_le_of_lt h (lt_two_pow_bitlen _)

theorem lt_ebW {W : DistW} {v : Nat} (h : v ≤ W.val - 2) : v < 2 ^ ebW W :=
  lt_of_le_of_lt h (lt_two_pow_bitlen _)

theorem lt_lW {W : DistW} {v : Nat} (h : v ≤ W.val - 1) : v < 2 ^ lW W :=
  lt_of_le_of_lt h (lt_two_pow_bitlen _)

/-! ### A port carries what fits in it -/

theorem toNat_fitPort_lt {n : Nat} (k : Nat) (v : BitVec n) : (fitPort k v).toNat < 2 ^ k := by
  unfold fitPort
  rw [BitVec.toNat_ofNat]
  exact lt_of_le_of_lt (Nat.mod_le _ _) (Nat.mod_lt _ (Nat.two_pow_pos k))

theorem fitPort_of_lt {n k : Nat} {v : BitVec n} (h : v.toNat < 2 ^ k) : fitPort k v = v := by
  unfold fitPort
  rw [Nat.mod_eq_of_lt h]
  simp

/-- A number below the port's width is driven whole, for a port no wider than the word that holds it. -/
theorem fitPort_ofNat {n k v : Nat} (hk : k ≤ n) (h : v < 2 ^ k) :
    fitPort k (BitVec.ofNat n v) = BitVec.ofNat n v := by
  apply fitPort_of_lt
  have : v < 2 ^ n := lt_of_lt_of_le h (Nat.pow_le_pow_right (by decide) hk)
  rw [BitVec.toNat_ofNat, Nat.mod_eq_of_lt this]
  exact h

theorem toNat_ofNat_of_lt {n v : Nat} (h : v < 2 ^ n) : (BitVec.ofNat n v).toNat = v := by
  rw [BitVec.toNat_ofNat, Nat.mod_eq_of_lt h]

/-! ### The two forms of the extra-bit value -/

theorem logValue_eq_mod (d l : Nat) : logValue d l = (d - (1 + 2 ^ l)) % 2 ^ (l - 1) := by
  unfold logValue
  simp only [Nat.shiftLeft_eq, one_mul]
  exact Nat.and_two_pow_sub_one_eq_mod _ _

/-! ### A distance of the log path (R63, R100) -/

/-- `d = 1 + 2^l + r * 2^(l-1) + x` with the fields of R63 in their ranges. -/
structure LogForm (d l r x : Nat) : Prop where
  l_ge : 2 ≤ l
  r_le : r ≤ 1
  x_lt : x < 2 ^ (l - 1)
  eq : d = 1 + 2 ^ l + r * 2 ^ (l - 1) + x

theorem two_pow_pred {l : Nat} (h : 1 ≤ l) : 2 ^ l = 2 * 2 ^ (l - 1) := by
  obtain ⟨k, rfl⟩ : ∃ k, l = k + 1 := ⟨l - 1, by omega⟩
  simp [Nat.pow_succ, Nat.mul_comm]

theorem four_le_two_pow {l : Nat} (h : 2 ≤ l) : 4 ≤ 2 ^ l :=
  le_trans (by decide) (Nat.pow_le_pow_right (by decide) h : 2 ^ 2 ≤ 2 ^ l)

namespace LogForm

variable {d l r x : Nat}

theorem bounds (f : LogForm d l r x) : 2 ^ l ≤ d - 1 ∧ d - 1 < 2 ^ (l + 1) ∧ 5 ≤ d := by
  obtain ⟨hl, hr, hx, rfl⟩ := f
  have h2 := two_pow_pred (l := l) (by omega)
  have h4 := four_le_two_pow hl
  have h3 : 2 ^ (l + 1) = 2 * 2 ^ l := Nat.pow_succ'
  have : r = 0 ∨ r = 1 := by omega
  rcases this with rfl | rfl <;> omega

theorem msb_eq (f : LogForm d l r x) : msb (d - 1) = l :=
  msb_unique f.bounds.1 f.bounds.2.1

theorem halfSelector_eq (f : LogForm d l r x) : halfSelector (d - 1) l = r := by
  obtain ⟨hl, hr, hx, rfl⟩ := f
  have h2 := two_pow_pred (l := l) (by omega)
  have e : 1 + 2 ^ l + r * 2 ^ (l - 1) + x - 1 = x + (2 + r) * 2 ^ (l - 1) := by
    rw [h2]; ring_nf; omega
  unfold halfSelector bitAt
  rw [e, Nat.add_mul_div_right _ _ (Nat.two_pow_pos _), Nat.div_eq_of_lt hx]
  omega

theorem extraSlice_eq (f : LogForm d l r x) : extraSlice (d - 1) l = x := by
  obtain ⟨hl, hr, hx, rfl⟩ := f
  have h2 := two_pow_pred (l := l) (by omega)
  have e : 1 + 2 ^ l + r * 2 ^ (l - 1) + x - 1 = x + (2 + r) * 2 ^ (l - 1) := by
    rw [h2]; ring_nf; omega
  unfold extraSlice lowBits
  rw [e, Nat.add_mul_mod_self_right, Nat.mod_eq_of_lt hx]

theorem logValue_eq (f : LogForm d l r x) : logValue d l = x := by
  obtain ⟨hl, hr, hx, rfl⟩ := f
  have e : 1 + 2 ^ l + r * 2 ^ (l - 1) + x - (1 + 2 ^ l) = x + r * 2 ^ (l - 1) := by omega
  rw [logValue_eq_mod, e, Nat.add_mul_mod_self_right, Nat.mod_eq_of_lt hx]

/-- What the three functions give for a distance of the log path. -/
theorem functions (f : LogForm d l r x) :
    distanceSymbol d = 2 * l + r ∧ extraBitCount d = l - 1 ∧ extraBitValue d = x := by
  have h5 : ¬ d < 5 := by have := f.bounds.2.2; omega
  unfold distanceSymbol extraBitCount extraBitValue logSymbol logCount
  simp only [h5, if_false, f.msb_eq, f.halfSelector_eq, f.logValue_eq, and_self]

/-- On a port that carries the distance, `l` is below `DIST_W`. -/
theorem l_lt {W : DistW} (f : LogForm d l r x) (h : d ≤ 2 ^ W.val) : l < W.val :=
  (Nat.pow_lt_pow_iff_right (by decide : 1 < 2)).1 (by have := f.bounds; omega)

theorem x_lt_evW {W : DistW} (f : LogForm d l r x) (h : l < W.val) : x < 2 ^ evW W :=
  lt_of_lt_of_le f.x_lt (Nat.pow_le_pow_right (by decide) (by unfold evW; omega))

end LogForm

/-- Every distance from 5 up has the form of R63. -/
theorem exists_logForm {d : Nat} (h : 5 ≤ d) : ∃ l r x, LogForm d l r x := by
  refine ⟨msb (d - 1), (d - 1 - 2 ^ msb (d - 1)) / 2 ^ (msb (d - 1) - 1),
    (d - 1 - 2 ^ msb (d - 1)) % 2 ^ (msb (d - 1) - 1), ?_⟩
  have lo := msb_lower (x := d - 1) (by omega)
  have hi := msb_upper (d - 1)
  have hl : 2 ≤ msb (d - 1) := by
    by_contra hc
    have : 2 ^ (msb (d - 1) + 1) ≤ 2 ^ 2 := Nat.pow_le_pow_right (by decide) (by omega)
    omega
  generalize msb (d - 1) = l at *
  have h2 := two_pow_pred (l := l) (by omega)
  have h3 : 2 ^ (l + 1) = 2 * 2 ^ l := Nat.pow_succ'
  have hpos := Nat.two_pow_pos (l - 1)
  refine ⟨hl, ?_, Nat.mod_lt _ hpos, ?_⟩
  · have : (d - 1 - 2 ^ l) / 2 ^ (l - 1) < 2 := (Nat.div_lt_iff_lt_mul hpos).2 (by omega)
    omega
  · have := Nat.div_add_mod' (d - 1 - 2 ^ l) (2 ^ (l - 1))
    omega

/-- The distances below 5 (R84, R92, R94). -/
theorem small_functions {d : Nat} (h : d < 5) :
    distanceSymbol d = d - 1 ∧ extraBitCount d = 0 ∧ extraBitValue d = 0 := by
  simp [distanceSymbol, extraBitCount, extraBitValue, h]

/-- `Base` and `EB` of a log symbol, in the form of R66. -/
theorem base_of_log {l r : Nat} (hl : 2 ≤ l) (hr : r ≤ 1) : base (2 * l + r) = 1 + 2 ^ l + r * 2 ^ (l - 1) := by
  have h4 : ¬ 2 * l + r < 4 := by omega
  have e1 : (2 * l + r) / 2 = l := by omega
  have e2 : (2 * l + r) % 2 = r := by omega
  simp only [base, h4, if_false, e1, e2, Nat.shiftLeft_eq, one_mul]

theorem countOfSymbol_of_log {l r : Nat} (hl : 2 ≤ l) (hr : r ≤ 1) : countOfSymbol (2 * l + r) = l - 1 := by
  have h4 : ¬ 2 * l + r < 4 := by omega
  simp only [countOfSymbol, h4, if_false]
  omega

/-! ### Every output of every distance fits its port (used by each meaning) -/

theorem symbol_fits {W : DistW} {d : Nat} (h : d < 2 ^ W.val) : distanceSymbol d < 2 ^ symW W := by
  have lo := W.lo
  apply lt_symW
  by_cases h5 : d < 5
  · rw [(small_functions h5).1]; omega
  · obtain ⟨l, r, x, f⟩ := exists_logForm (by omega : 5 ≤ d)
    have := f.l_lt (W := W) (by omega)
    have := f.r_le
    rw [f.functions.1]; omega

theorem count_fits {W : DistW} {d : Nat} (h : d < 2 ^ W.val) : extraBitCount d < 2 ^ ebW W := by
  have lo := W.lo
  apply lt_ebW
  by_cases h5 : d < 5
  · rw [(small_functions h5).2.1]; omega
  · obtain ⟨l, r, x, f⟩ := exists_logForm (by omega : 5 ≤ d)
    have := f.l_lt (W := W) (by omega)
    rw [f.functions.2.1]; omega

theorem value_fits {W : DistW} {d : Nat} (h : d < 2 ^ W.val) : extraBitValue d < 2 ^ evW W := by
  by_cases h5 : d < 5
  · rw [(small_functions h5).2.2]; exact Nat.two_pow_pos _
  · obtain ⟨l, r, x, f⟩ := exists_logForm (by omega : 5 ≤ d)
    rw [f.functions.2.2]
    exact f.x_lt_evW (f.l_lt (by omega))

/-- The inverse of a build, by R107's inverse and the limit of 95_test_vectors.md section 2.9 (log 21). -/
theorem decOnPort_eq_some {W : DistW} {s v d : Nat} : decOnPort W s v = some d ↔ dec s v = some d ∧ d ≤ maxDist W := by
  simp [decOnPort, Option.filter_eq_some_iff]

end Sys2Proof.Machine
end

