-- ==== Sys2Proof/Laws/State.lean ====
section
/-! SUPPORT. What each operation does to each field of the state, one lemma per field. -/

namespace Sys2Proof.Machine

/-! ### advanceDraws -/

@[simp] theorem advanceDraws_cfg (s : State) : (advanceDraws s).cfg = s.cfg := rfl
@[simp] theorem advanceDraws_dist (s : State) : (advanceDraws s).dist = s.dist := rfl
@[simp] theorem advanceDraws_held (s : State) : (advanceDraws s).held = s.held := rfl
@[simp] theorem advanceDraws_out (s : State) : (advanceDraws s).out = s.out := rfl
@[simp] theorem advanceDraws_wires (s : State) : (advanceDraws s).wires = s.wires := rfl
@[simp] theorem advanceDraws_program (s : State) : (advanceDraws s).program = s.program := rfl
@[simp] theorem advanceDraws_results (s : State) : (advanceDraws s).results = s.results := rfl
@[simp] theorem advanceDraws_faultRecord (s : State) : (advanceDraws s).faultRecord = s.faultRecord := rfl
@[simp] theorem advanceDraws_draws (s : State) : (advanceDraws s).draws = s.draws + 1 := rfl

/-! ### driveInput -/

@[simp] theorem driveInput_cfg (d : Word) (s : State) : (driveInput d s).cfg = s.cfg := rfl
@[simp] theorem driveInput_dist (d : Word) (s : State) : (driveInput d s).dist = some d := rfl
@[simp] theorem driveInput_held (d : Word) (s : State) : (driveInput d s).held = s.cfg.tPd := rfl
@[simp] theorem driveInput_out (d : Word) (s : State) : (driveInput d s).out =
    { s.out with domErr := domErrOf d.toNat, ext := extOf d.toNat } := rfl
@[simp] theorem driveInput_wires (d : Word) (s : State) : (driveInput d s).wires =
    { s.wires with m := d - 1, small := isSmall d.toNat } := rfl
@[simp] theorem driveInput_program (d : Word) (s : State) : (driveInput d s).program = s.program := rfl
@[simp] theorem driveInput_results (d : Word) (s : State) : (driveInput d s).results = s.results := rfl
@[simp] theorem driveInput_faultRecord (d : Word) (s : State) : (driveInput d s).faultRecord = s.faultRecord := rfl
@[simp] theorem driveInput_draws (d : Word) (s : State) : (driveInput d s).draws = s.draws := rfl

/-! ### bitlenUnit -/

@[simp] theorem bitlenUnit_cfg (s : State) : (bitlenUnit s).cfg = s.cfg := rfl
@[simp] theorem bitlenUnit_dist (s : State) : (bitlenUnit s).dist = s.dist := rfl
@[simp] theorem bitlenUnit_held (s : State) : (bitlenUnit s).held = s.held := rfl
@[simp] theorem bitlenUnit_out (s : State) : (bitlenUnit s).out = s.out := rfl
@[simp] theorem bitlenUnit_wires (s : State) : (bitlenUnit s).wires = { s.wires with l := bitlenOut s } := rfl
@[simp] theorem bitlenUnit_program (s : State) : (bitlenUnit s).program = s.program := rfl
@[simp] theorem bitlenUnit_results (s : State) : (bitlenUnit s).results = s.results := rfl
@[simp] theorem bitlenUnit_faultRecord (s : State) : (bitlenUnit s).faultRecord = s.faultRecord := rfl
@[simp] theorem bitlenUnit_draws (s : State) : (bitlenUnit s).draws = s.draws := rfl

/-! ### symmapUnit -/

@[simp] theorem symmapUnit_cfg (s : State) : (symmapUnit s).cfg = s.cfg := rfl
@[simp] theorem symmapUnit_dist (s : State) : (symmapUnit s).dist = s.dist := rfl
@[simp] theorem symmapUnit_held (s : State) : (symmapUnit s).held = s.held := rfl
@[simp] theorem symmapUnit_out (s : State) : (symmapUnit s).out = { s.out with sym := symmapOut s } := rfl
@[simp] theorem symmapUnit_wires (s : State) : (symmapUnit s).wires = { s.wires with r := selectorOut s } := rfl
@[simp] theorem symmapUnit_program (s : State) : (symmapUnit s).program = s.program := rfl
@[simp] theorem symmapUnit_results (s : State) : (symmapUnit s).results = s.results := rfl
@[simp] theorem symmapUnit_faultRecord (s : State) : (symmapUnit s).faultRecord = s.faultRecord := rfl
@[simp] theorem symmapUnit_draws (s : State) : (symmapUnit s).draws = s.draws := rfl

/-! ### extractUnit -/

@[simp] theorem extractUnit_cfg (s : State) : (extractUnit s).cfg = s.cfg := rfl
@[simp] theorem extractUnit_dist (s : State) : (extractUnit s).dist = s.dist := rfl
@[simp] theorem extractUnit_held (s : State) : (extractUnit s).held = s.held := rfl
@[simp] theorem extractUnit_out (s : State) : (extractUnit s).out =
    { s.out with ebits := countOut s, evalue := valueOut s } := rfl
@[simp] theorem extractUnit_wires (s : State) : (extractUnit s).wires = { s.wires with x := sliceOut s } := rfl
@[simp] theorem extractUnit_program (s : State) : (extractUnit s).program = s.program := rfl
@[simp] theorem extractUnit_results (s : State) : (extractUnit s).results = s.results := rfl
@[simp] theorem extractUnit_faultRecord (s : State) : (extractUnit s).faultRecord = s.faultRecord := rfl
@[simp] theorem extractUnit_draws (s : State) : (extractUnit s).draws = s.draws := rfl

/-! ### sampleOutputs -/

@[simp] theorem sampleOutputs_cfg (s : State) : (sampleOutputs s).cfg = s.cfg := rfl
@[simp] theorem sampleOutputs_dist (s : State) : (sampleOutputs s).dist = s.dist := rfl
@[simp] theorem sampleOutputs_held (s : State) : (sampleOutputs s).held = s.held := rfl
@[simp] theorem sampleOutputs_out (s : State) : (sampleOutputs s).out = s.out := rfl
@[simp] theorem sampleOutputs_wires (s : State) : (sampleOutputs s).wires = s.wires := rfl
@[simp] theorem sampleOutputs_program (s : State) : (sampleOutputs s).program = s.program := rfl
@[simp] theorem sampleOutputs_results (s : State) : (sampleOutputs s).results = s.results ++ [sampleOf s.out] := rfl
@[simp] theorem sampleOutputs_faultRecord (s : State) : (sampleOutputs s).faultRecord = s.faultRecord := rfl
@[simp] theorem sampleOutputs_draws (s : State) : (sampleOutputs s).draws = s.draws + 1 := rfl

/-! ### completeEvaluation -/

@[simp] theorem completeEvaluation_cfg (d : Word) (o : OutPorts) (w : Wires) (s : State) : (completeEvaluation d o w s).cfg = s.cfg := rfl
@[simp] theorem completeEvaluation_dist (d : Word) (o : OutPorts) (w : Wires) (s : State) : (completeEvaluation d o w s).dist = some d := rfl
@[simp] theorem completeEvaluation_held (d : Word) (o : OutPorts) (w : Wires) (s : State) : (completeEvaluation d o w s).held = s.cfg.tPd := rfl
@[simp] theorem completeEvaluation_out (d : Word) (o : OutPorts) (w : Wires) (s : State) : (completeEvaluation d o w s).out = o := rfl
@[simp] theorem completeEvaluation_wires (d : Word) (o : OutPorts) (w : Wires) (s : State) : (completeEvaluation d o w s).wires = w := rfl
@[simp] theorem completeEvaluation_program (d : Word) (o : OutPorts) (w : Wires) (s : State) : (completeEvaluation d o w s).program = s.program := rfl
@[simp] theorem completeEvaluation_results (d : Word) (o : OutPorts) (w : Wires) (s : State) : (completeEvaluation d o w s).results = s.results ++ [sampleOf o] := rfl
@[simp] theorem completeEvaluation_faultRecord (d : Word) (o : OutPorts) (w : Wires) (s : State) : (completeEvaluation d o w s).faultRecord = s.faultRecord := rfl
@[simp] theorem completeEvaluation_draws (d : Word) (o : OutPorts) (w : Wires) (s : State) : (completeEvaluation d o w s).draws = s.draws + 1 := rfl

/-! ### takeDomainError -/

@[simp] theorem takeDomainError_cfg (s : State) : (takeDomainError s).cfg = s.cfg := rfl
@[simp] theorem takeDomainError_dist (s : State) : (takeDomainError s).dist = some 0 := rfl
@[simp] theorem takeDomainError_held (s : State) : (takeDomainError s).held = s.cfg.tPd := rfl
@[simp] theorem takeDomainError_out (s : State) : (takeDomainError s).out =
    { sym := drawSym s, ebits := drawEbits s, evalue := drawEvalue s, domErr := true, ext := false } := rfl
@[simp] theorem takeDomainError_wires (s : State) : (takeDomainError s).wires =
    { m := drawM s, small := isSmall 0, l := drawL s, r := drawR s, x := drawX s } := rfl
@[simp] theorem takeDomainError_program (s : State) : (takeDomainError s).program = s.program := rfl
@[simp] theorem takeDomainError_results (s : State) : (takeDomainError s).results = s.results ++ [.fault .domainError] := rfl
@[simp] theorem takeDomainError_faultRecord (s : State) : (takeDomainError s).faultRecord = s.faultRecord ++ [s.results.length + 1] := rfl
@[simp] theorem takeDomainError_draws (s : State) : (takeDomainError s).draws = s.draws + 1 := rfl

/-! ### leaveUnsettled -/

@[simp] theorem leaveUnsettled_cfg (dist : Option Word) (held : Nat) (s : State) : (leaveUnsettled dist held s).cfg = s.cfg := rfl
@[simp] theorem leaveUnsettled_dist (dist : Option Word) (held : Nat) (s : State) : (leaveUnsettled dist held s).dist = dist := rfl
@[simp] theorem leaveUnsettled_held (dist : Option Word) (held : Nat) (s : State) : (leaveUnsettled dist held s).held = held := rfl
@[simp] theorem leaveUnsettled_out (dist : Option Word) (held : Nat) (s : State) : (leaveUnsettled dist held s).out =
    { sym := drawSym s, ebits := drawEbits s, evalue := drawEvalue s, domErr := drawDomErr s, ext := drawExt s } := rfl
@[simp] theorem leaveUnsettled_wires (dist : Option Word) (held : Nat) (s : State) : (leaveUnsettled dist held s).wires =
    { m := drawM s, small := drawSmall s, l := drawL s, r := drawR s, x := drawX s } := rfl
@[simp] theorem leaveUnsettled_program (dist : Option Word) (held : Nat) (s : State) : (leaveUnsettled dist held s).program = s.program := rfl
@[simp] theorem leaveUnsettled_results (dist : Option Word) (held : Nat) (s : State) : (leaveUnsettled dist held s).results = s.results ++ [.unspecified] := rfl
@[simp] theorem leaveUnsettled_faultRecord (dist : Option Word) (held : Nat) (s : State) : (leaveUnsettled dist held s).faultRecord = s.faultRecord := rfl
@[simp] theorem leaveUnsettled_draws (dist : Option Word) (held : Nat) (s : State) : (leaveUnsettled dist held s).draws = s.draws + 1 := rfl

end Sys2Proof.Machine
end

