-- ==== Sys2Proof/Laws/Ops.lean ====
section
/-! SUPPORT. One lemma per shared operation that says what it gives: a draw fits its port, what each sub-unit drives, and
what ENCODE does on each of its two branches. -/

namespace Sys2Proof.Machine

/-! ### Draws and sub-units fit their ports, in every state -/

theorem drawSym_fits (s : State) : (drawSym s).toNat < 2 ^ symW s.cfg.distW := toNat_fitPort_lt _ _
theorem drawEbits_fits (s : State) : (drawEbits s).toNat < 2 ^ ebW s.cfg.distW := toNat_fitPort_lt _ _
theorem drawEvalue_fits (s : State) : (drawEvalue s).toNat < 2 ^ evW s.cfg.distW := toNat_fitPort_lt _ _
theorem drawM_fits (s : State) : (drawM s).toNat < 2 ^ s.cfg.distW.val := toNat_fitPort_lt _ _
theorem drawL_fits (s : State) : (drawL s).toNat < 2 ^ lW s.cfg.distW := toNat_fitPort_lt _ _
theorem drawX_fits (s : State) : (drawX s).toNat < 2 ^ evW s.cfg.distW := toNat_fitPort_lt _ _

theorem bitlenOut_fits (s : State) : (bitlenOut s).toNat < 2 ^ lW s.cfg.distW := by
  unfold bitlenOut
  split
  · exact drawL_fits s
  · exact toNat_fitPort_lt _ _

theorem symmapOut_fits (s : State) : (symmapOut s).toNat < 2 ^ symW s.cfg.distW := by
  unfold symmapOut
  split
  · split
    · split
      · exact drawSym_fits s
      · exact toNat_fitPort_lt _ _
    · exact drawSym_fits s
  · split
    · exact drawSym_fits s
    · exact toNat_fitPort_lt _ _

theorem sliceOut_fits (s : State) : (sliceOut s).toNat < 2 ^ evW s.cfg.distW := by
  unfold sliceOut
  split
  · exact drawX_fits s
  · exact toNat_fitPort_lt _ _

theorem countOut_fits (s : State) : (countOut s).toNat < 2 ^ ebW s.cfg.distW := by
  unfold countOut
  split
  · split
    · exact Nat.two_pow_pos _
    · exact drawEbits_fits s
  · split
    · exact drawEbits_fits s
    · exact toNat_fitPort_lt _ _

theorem valueOut_fits (s : State) : (valueOut s).toNat < 2 ^ evW s.cfg.distW := by
  unfold valueOut
  split
  · split
    · exact Nat.two_pow_pos _
    · exact drawEvalue_fits s
  · split
    · split
      · exact drawEvalue_fits s
      · exact toNat_fitPort_lt _ _
    · exact drawEvalue_fits s

/-! ### What each sub-unit drives -/

/-- BITLEN at an `m >= 1` that the build carries (R76). -/
theorem bitlenOut_of_pos {s : State} (h : 1 ≤ s.wires.m.toNat) (hm : s.wires.m.toNat < 2 ^ s.cfg.distW.val) :
    bitlenOut s = BitVec.ofNat 5 (msb s.wires.m.toNat) := by
  have h0 : ¬ s.wires.m = 0 := by intro e; rw [e] at h; simp at h
  have hl := msb_lt_of_lt h hm
  unfold bitlenOut
  rw [if_neg h0]
  exact fitPort_ofNat (lW_le _) (lt_lW (by omega))

/-- SYMMAP's small path (R84). -/
theorem symmapOut_small {s : State} {d : Word} (hs : s.wires.small = true) (hd : s.dist = some d)
    (h1 : 1 ≤ d.toNat) (h4 : d.toNat < 5) : symmapOut s = BitVec.ofNat 6 (d.toNat - 1) := by
  have lo := s.cfg.distW.lo
  have h0 : ¬ d = 0 := by intro e; rw [e] at h1; simp at h1
  unfold symmapOut
  simp only [hs, hd, if_true, h0, if_false]
  exact fitPort_ofNat (symW_le _) (lt_symW (by omega))

/-- SYMMAP's log path (R85). -/
theorem symmapOut_log {s : State} (hs : s.wires.small = false) (hl : 1 ≤ s.wires.l.toNat)
    (hw : s.wires.l.toNat < s.cfg.distW.val) :
    symmapOut s = BitVec.ofNat 6 (logSymbol s.wires.m.toNat s.wires.l.toNat) := by
  have h0 : ¬ s.wires.l = 0 := by intro e; rw [e] at hl; simp at hl
  have hr : halfSelector s.wires.m.toNat s.wires.l.toNat ≤ 1 := by unfold halfSelector bitAt; omega
  unfold symmapOut
  simp only [hs, Bool.false_eq_true, if_false, h0]
  exact fitPort_ofNat (symW_le _) (lt_symW (by unfold logSymbol; omega))

/-- The half-selector on the log path (R61). -/
theorem selectorOut_log {s : State} (hs : s.wires.small = false) (hl : 1 ≤ s.wires.l.toNat) :
    selectorOut s = decide (halfSelector s.wires.m.toNat s.wires.l.toNat = 1) := by
  have h0 : ¬ s.wires.l = 0 := by intro e; rw [e] at hl; simp at hl
  have hn : ¬ (s.wires.small = true ∨ s.wires.l = 0) := by
    rintro (h | h)
    · rw [hs] at h; cases h
    · exact h0 h
  rw [selectorOut, if_neg hn]

/-- The slice on the log path (R62). -/
theorem sliceOut_log {s : State} (hs : s.wires.small = false) (hl : 1 ≤ s.wires.l.toNat)
    (hw : s.wires.l.toNat < s.cfg.distW.val) :
    sliceOut s = BitVec.ofNat 30 (extraSlice s.wires.m.toNat s.wires.l.toNat) := by
  have h0 : ¬ s.wires.l = 0 := by intro e; rw [e] at hl; simp at hl
  unfold sliceOut
  simp only [hs, Bool.false_eq_true, false_or, h0, if_false]
  refine fitPort_ofNat (evW_le _) (lt_of_lt_of_le (Nat.mod_lt _ (Nat.two_pow_pos _)) ?_)
  exact Nat.pow_le_pow_right (by decide) (by unfold evW; omega)

theorem wordInDomain_some {s : State} {d : Word} (hd : s.dist = some d) (h1 : 1 ≤ d.toNat) : wordInDomain s = true := by
  have h0 : d ≠ 0 := by rintro rfl; simp at h1
  simpa only [wordInDomain, hd] using decide_eq_true h0

/-- EXTRACT's small path (R92, R94). -/
theorem extract_small {s : State} {d : Word} (hs : s.wires.small = true) (hd : s.dist = some d) (h1 : 1 ≤ d.toNat) :
    countOut s = 0 ∧ valueOut s = 0 := by
  simp [countOut, valueOut, hs, wordInDomain_some hd h1]

/-- EXTRACT's small path off the domain: both ports are draws (R119, R137; log 10). -/
theorem extract_offDomain {s : State} (hs : s.wires.small = true) (hd : wordInDomain s = false) :
    countOut s = drawEbits s ∧ valueOut s = drawEvalue s := by
  simp [countOut, valueOut, hs, hd]

/-- EXTRACT's count on the log path (R93). -/
theorem countOut_log {s : State} (hs : s.wires.small = false) (hl : 1 ≤ s.wires.l.toNat)
    (hw : s.wires.l.toNat < s.cfg.distW.val) : countOut s = BitVec.ofNat 5 (s.wires.l.toNat - 1) := by
  have h0 : ¬ s.wires.l = 0 := by intro e; rw [e] at hl; simp at hl
  unfold countOut
  simp only [hs, Bool.false_eq_true, h0, if_false]
  exact fitPort_ofNat (ebW_le _) (lt_ebW (by unfold logCount; omega))

/-- EXTRACT's value on the log path (R95). -/
theorem valueOut_log {s : State} {d : Word} (hs : s.wires.small = false) (hd : s.dist = some d)
    (hl : 1 ≤ s.wires.l.toNat) (hw : s.wires.l.toNat < s.cfg.distW.val)
    (hle : 1 + 2 ^ s.wires.l.toNat ≤ d.toNat) :
    valueOut s = BitVec.ofNat 30 (logValue d.toNat s.wires.l.toNat) := by
  have h0 : ¬ s.wires.l = 0 := by intro e; rw [e] at hl; simp at hl
  have hn : ¬ (s.wires.l = 0 ∨ d.toNat < 1 + 2 ^ s.wires.l.toNat) := by
    rintro (h | h)
    · exact h0 h
    · omega
  unfold valueOut
  simp only [hs, hd, Bool.false_eq_true, if_false, hn]
  refine fitPort_ofNat (evW_le _) ?_
  rw [logValue_eq_mod]
  exact lt_of_lt_of_le (Nat.mod_lt _ (Nat.two_pow_pos _)) (Nat.pow_le_pow_right (by decide) (by unfold evW; omega))

/-! ### ENCODE -/

/-- The internal signals after an evaluation of `d >= 1`, the undefined ones drawn (R58 to R62, R78). -/
def wiresOf (d : Word) (s : State) : Wires where
  m := d - 1
  small := isSmall d.toNat
  l := if d.toNat = 1 then drawL s else BitVec.ofNat 5 (msb (d.toNat - 1))
  r := if d.toNat < 5 then drawR s else decide (halfSelector (d.toNat - 1) (msb (d.toNat - 1)) = 1)
  x := if d.toNat < 5 then drawX s else BitVec.ofNat 30 (extraSlice (d.toNat - 1) (msb (d.toNat - 1)))

theorem pred_toNat {d : Word} (h : 1 ≤ d.toNat) : (d - 1).toNat = d.toNat - 1 := by
  have := d.isLt
  rw [BitVec.toNat_sub]
  simp
  omega

/-- The data path is known once its outputs and signals are. -/
theorem evaluation_ext {d : Word} {s : State} {o : OutPorts} {w : Wires}
    (ho : (sampleOutputs (extractUnit (symmapUnit (bitlenUnit (driveInput d s))))).out = o)
    (hw : (sampleOutputs (extractUnit (symmapUnit (bitlenUnit (driveInput d s))))).wires = w) :
    sampleOutputs (extractUnit (symmapUnit (bitlenUnit (driveInput d s)))) = completeEvaluation d o w s := by
  subst ho hw
  rfl

/-- The data path of ENCODE for `d >= 1`, as one evaluation (R101, R104). -/
theorem dataPath_eq {d : Word} {s : State} (h1 : 1 ≤ d.toNat) (hp : d.toNat < 2 ^ s.cfg.distW.val) :
    sampleOutputs (extractUnit (symmapUnit (bitlenUnit (driveInput d s)))) =
      completeEvaluation d (outputsOf d.toNat) (wiresOf d s) s := by
  have hm := pred_toNat h1
  have hd0 : decide (d.toNat = 0) = false := decide_eq_false (by omega)
  have hl : bitlenOut (driveInput d s) = (wiresOf d s).l := by
    by_cases h : d.toNat = 1
    · have e : d - 1 = 0 := by apply BitVec.eq_of_toNat_eq; rw [hm]; simp [h]
      simp only [bitlenOut, driveInput_wires, e, if_true, wiresOf, h]
      rfl
    · have := bitlenOut_of_pos (s := driveInput d s) (by simp only [driveInput_wires, hm]; omega)
        (by simp only [driveInput_wires, hm, driveInput_cfg]; omega)
      rw [this]
      simp only [driveInput_wires, hm, wiresOf, h, if_false]
  by_cases h5 : d.toNat < 5
  · obtain ⟨f1, f2, f3⟩ := small_functions h5
    have hs : isSmall d.toNat = true := decide_eq_true h5
    have hy : symmapOut (bitlenUnit (driveInput d s)) = BitVec.ofNat 6 (d.toNat - 1) :=
      symmapOut_small (d := d) hs rfl h1 h5
    have hr : selectorOut (bitlenUnit (driveInput d s)) = drawR s := by
      simp only [selectorOut, bitlenUnit_wires, driveInput_wires, hs, true_or, if_true]; rfl
    have hx : sliceOut (symmapUnit (bitlenUnit (driveInput d s))) = drawX s := by
      simp only [sliceOut, symmapUnit_wires, bitlenUnit_wires, driveInput_wires, hs, true_or, if_true]; rfl
    obtain ⟨hb, hv⟩ := extract_small (s := symmapUnit (bitlenUnit (driveInput d s))) hs rfl h1
    have ho : (sampleOutputs (extractUnit (symmapUnit (bitlenUnit (driveInput d s))))).out = outputsOf d.toNat := by
      simp only [sampleOutputs_out, extractUnit_out, symmapUnit_out, bitlenUnit_out, driveInput_out, hb, hv, hy, outputsOf,
        f1, f2, f3, domErrOf, hd0]
      rfl
    have hw : (sampleOutputs (extractUnit (symmapUnit (bitlenUnit (driveInput d s))))).wires = wiresOf d s := by
      simp only [sampleOutputs_wires, extractUnit_wires, symmapUnit_wires, bitlenUnit_wires, driveInput_wires, hx, hr, hl,
        wiresOf, h5, if_true]
    exact evaluation_ext ho hw
  · obtain ⟨l, r, x, f⟩ := exists_logForm (by omega : 5 ≤ d.toNat)
    have hlw : l < s.cfg.distW.val := f.l_lt (by omega)
    have hhi := s.cfg.distW.hi
    have hs : isSmall d.toNat = false := decide_eq_false h5
    have el : (wiresOf d s).l = BitVec.ofNat 5 l := by
      simp only [wiresOf, f.msb_eq, show ¬ d.toNat = 1 by omega, if_false]
    have elN : (BitVec.ofNat 5 l).toNat = l := toNat_ofNat_of_lt (by omega)
    have e1 : (bitlenUnit (driveInput d s)).wires.l.toNat = l := by
      simp only [bitlenUnit_wires, hl, el, elN]
    have e2 : (bitlenUnit (driveInput d s)).wires.m.toNat = d.toNat - 1 := hm
    have hl2 := f.l_ge
    have hy := symmapOut_log (s := bitlenUnit (driveInput d s)) hs (by omega) (by rw [e1]; exact hlw)
    have hr := selectorOut_log (s := bitlenUnit (driveInput d s)) hs (by omega)
    have hx := sliceOut_log (s := symmapUnit (bitlenUnit (driveInput d s))) hs
      (by simp only [symmapUnit_wires]; omega) (by simp only [symmapUnit_wires]; rw [e1]; exact hlw)
    have hb := countOut_log (s := symmapUnit (bitlenUnit (driveInput d s))) hs
      (by simp only [symmapUnit_wires]; omega) (by simp only [symmapUnit_wires]; rw [e1]; exact hlw)
    have hv := valueOut_log (s := symmapUnit (bitlenUnit (driveInput d s))) (d := d) hs rfl
      (by simp only [symmapUnit_wires]; omega) (by simp only [symmapUnit_wires]; rw [e1]; exact hlw)
      (by simp only [symmapUnit_wires]; rw [e1]; have := f.bounds; omega)
    rw [e1, e2] at hy hr
    simp only [symmapUnit_wires, e1, e2] at hx hb hv
    obtain ⟨f1, f2, f3⟩ := f.functions
    have g1 : logSymbol (d.toNat - 1) l = 2 * l + r := by unfold logSymbol; rw [f.halfSelector_eq]
    have ho : (sampleOutputs (extractUnit (symmapUnit (bitlenUnit (driveInput d s))))).out = outputsOf d.toNat := by
      simp only [sampleOutputs_out, extractUnit_out, symmapUnit_out, bitlenUnit_out, driveInput_out, hb, hv, hy, outputsOf,
        f1, f2, f3, g1, f.logValue_eq, domErrOf, hd0]
    have hw : (sampleOutputs (extractUnit (symmapUnit (bitlenUnit (driveInput d s))))).wires = wiresOf d s := by
      simp only [sampleOutputs_wires, extractUnit_wires, symmapUnit_wires, bitlenUnit_wires, driveInput_wires, hx, hr, hl,
        wiresOf, h5, if_false, f.msb_eq]
    exact evaluation_ext ho hw

/-- ENCODE of a word the port cannot carry. -/
theorem execEncode_off {d : Word} {s : State} (h : onPort s.cfg.distW d.toNat = false) :
    execEncode d s = .refused .notOnPort := by
  simp [execEncode, h]

/-- ENCODE of 0 (R119). -/
theorem execEncode_zero (s : State) : execEncode 0 s = .next (takeDomainError s) := by
  have h : onPort s.cfg.distW (0 : Word).toNat = true := by simp [onPort]
  unfold execEncode
  rw [h]
  rfl

/-- ENCODE of `d >= 1` (R101). -/
theorem execEncode_pos {d : Word} {s : State} (hp : onPort s.cfg.distW d.toNat = true) (h1 : 1 ≤ d.toNat) :
    execEncode d s = .next (completeEvaluation d (outputsOf d.toNat) (wiresOf d s) s) := by
  have h0 : ¬ d = 0 := by intro e; rw [e] at h1; simp at h1
  unfold execEncode
  rw [hp]
  simp only [Bool.true_eq_false, if_false, h0]
  rw [dataPath_eq h1 (by simpa [onPort] using hp)]

end Sys2Proof.Machine
end

