-- ==== Sys2Proof/Laws/Decode.lean ====
section
/-! SUPPORT. The class table: the mask and pattern of each row by formula, the row that a word finds, and the word and
operand of each class. -/

namespace Sys2Proof

open Sys2Proof.Machine

/-! ### Masks (R65, R66) -/

/-- A mask of bits `k` and up keeps the number's quotient by `2^k`. -/
theorem and_high_mask {m k : Nat} (hk : k ≤ 32) (hm : m < 2 ^ 32) : m &&& (2 ^ 32 - 2 ^ k) = m / 2 ^ k * 2 ^ k := by
  have e : 2 ^ 32 - 2 ^ k = 2 ^ 32 - ((2 ^ k - 1) + 1) := by have := Nat.two_pow_pos k; omega
  have hlt : 2 ^ k - 1 < 2 ^ 32 := by
    have := Nat.two_pow_pos k
    have : 2 ^ k ≤ 2 ^ 32 := Nat.pow_le_pow_right (by decide) hk
    omega
  apply Nat.eq_of_testBit_eq
  intro i
  rw [Nat.testBit_and, e, Nat.testBit_two_pow_sub_succ hlt, Nat.testBit_two_pow_sub_one, Nat.testBit_mul_two_pow,
    Nat.testBit_div_two_pow]
  by_cases hi : k ≤ i
  · by_cases h32 : i < 32
    · simp [hi, h32, Nat.not_lt.2 hi]
    · have : m.testBit i = false :=
        Nat.testBit_lt_two_pow (lt_of_lt_of_le hm (Nat.pow_le_pow_right (by decide) (by omega)))
      simp [hi, this]
  · simp [hi, Nat.lt_of_not_le hi]

/-- The mask and the pattern of row `n`, by the formulas of R65 and R66. -/
def rowForm (n : Nat) : Nat × Nat :=
  if n < 4 then (2 ^ 32 - 2 ^ 0, n) else (2 ^ 32 - 2 ^ (n / 2 - 1), (2 + n % 2) * 2 ^ (n / 2 - 1))

theorem classRows_form : classRows.map (fun row => (row.mask.toNat, row.pattern.toNat)) = (List.range 64).map rowForm := by
  decide

theorem classRows_length : classRows.length = 64 := rfl

theorem classRows_getElem_form {n : Nat} (h : n < classRows.length) :
    (classRows[n].mask.toNat, classRows[n].pattern.toNat) = rowForm n := by
  have h' : n < ((List.range 64).map rowForm).length := by simpa [classRows_length] using h
  have e : (classRows.map (fun row => (row.mask.toNat, row.pattern.toNat)))[n]'(by simpa using h) =
      ((List.range 64).map rowForm)[n]'h' := by simp only [classRows_form]
  simpa using e

/-- A word matches row `n` exactly when its bits from `l-1` up are the row's (R65, R66). -/
theorem row_matches_iff {n : Nat} (h : n < classRows.length) (m : Word) :
    m &&& classRows[n].mask = classRows[n].pattern ↔
      if n < 4 then m.toNat = n else m.toNat / 2 ^ (n / 2 - 1) = 2 + n % 2 := by
  have f := classRows_getElem_form h
  have h64 : n < 64 := h
  rw [← BitVec.toNat_inj, BitVec.toNat_and]
  by_cases h4 : n < 4
  · simp only [rowForm, h4, if_true, Prod.mk.injEq] at f
    rw [f.1, f.2, and_high_mask (by omega) m.isLt]
    simp [h4]
  · simp only [rowForm, h4, if_false, Prod.mk.injEq] at f
    rw [f.1, f.2, and_high_mask (by omega) m.isLt, if_neg h4]
    exact Nat.mul_left_inj (Nat.two_pow_pos _).ne'

/-- A distance is in the class of its symbol and no other: the match of row `n`, said of the distance. -/
theorem row_matches_iff_symbol {n : Nat} (h : n < classRows.length) (m : Word) :
    m &&& classRows[n].mask = classRows[n].pattern ↔ distanceSymbol (m.toNat + 1) = n := by
  rw [row_matches_iff h]
  by_cases h5 : m.toNat + 1 < 5
  · rw [(small_functions h5).1]
    split
    · simp
    · rename_i h4
      constructor
      · intro e
        have h2 : 2 ^ 1 ≤ 2 ^ (n / 2 - 1) := Nat.pow_le_pow_right (by decide) (by omega)
        have : m.toNat / 2 ^ (n / 2 - 1) ≤ m.toNat / 2 := Nat.div_le_div_left (by omega) (by decide)
        omega
      · intro e; omega
  · obtain ⟨l, r, x, f⟩ := exists_logForm (by omega : 5 ≤ m.toNat + 1)
    obtain ⟨hl, hr, hx, e⟩ := id f
    rw [f.functions.1]
    split
    · constructor <;> intro <;> omega
    · rename_i h4
      constructor
      · intro q
        have f' : LogForm (m.toNat + 1) (n / 2) (n % 2) (m.toNat % 2 ^ (n / 2 - 1)) := by
          refine ⟨by omega, by omega, Nat.mod_lt _ (Nat.two_pow_pos _), ?_⟩
          have := Nat.div_add_mod' m.toNat (2 ^ (n / 2 - 1))
          rw [q, Nat.add_mul] at this
          rw [two_pow_pred (by omega : 1 ≤ n / 2)]
          omega
        have := f.functions.1.symm.trans f'.functions.1
        omega
      · intro q
        subst q
        have e1 : (2 * l + r) / 2 = l := by omega
        have e2 : (2 * l + r) % 2 = r := by omega
        rw [e1, e2]
        have hm : m.toNat = x + (2 + r) * 2 ^ (l - 1) := by
          have := two_pow_pred (by omega : 1 ≤ l)
          have e' : m.toNat = 2 ^ l + r * 2 ^ (l - 1) + x := by omega
          rw [e', this]; ring
        rw [hm, Nat.add_mul_div_right _ _ (Nat.two_pow_pos _), Nat.div_eq_of_lt hx]
        omega

/-- The symbol of a 32-bit distance is one of the table's 64. -/
theorem symbol_lt_rows (m : Word) (h : m.toNat + 1 < 2 ^ 32) : distanceSymbol (m.toNat + 1) < classRows.length := by
  have := symbol_fits (W := DistW.extended) (d := m.toNat + 1) h
  have e : symW DistW.extended = 6 := by decide
  rw [e] at this
  exact this

/-- The class decode finds the row of the distance's symbol (R64). -/
theorem decodeClass_eq (m : Word) (h : m.toNat + 1 < 2 ^ 32) :
    decodeClass m = some ((classRows[distanceSymbol (m.toNat + 1)]'(symbol_lt_rows m h)).instr m) := by
  have hn := symbol_lt_rows m h
  have : classRows.find? (fun row => m &&& row.mask == row.pattern) =
      some (classRows[distanceSymbol (m.toNat + 1)]'hn) := by
    rw [List.find?_eq_some_iff_getElem]
    refine ⟨by simpa using (row_matches_iff_symbol hn m).2 rfl, _, hn, rfl, ?_⟩
    intro j hj
    have hjl : j < classRows.length := by omega
    have : ¬ m &&& classRows[j].mask = classRows[j].pattern := by
      rw [row_matches_iff_symbol hjl m]; omega
    simpa using this
  unfold decodeClass
  rw [this]
  rfl

/-! ### The word and the operand of each class -/

/-- The class number and operand that row `n` reads from a word (R65, R66). -/
theorem row_classOf (m : Word) :
    ∀ n (h : n < classRows.length),
      ((classRows[n]'h).instr m).classOf = some (n, if n < 4 then 0 else m.toNat % 2 ^ (n / 2 - 1)) := by
  intro n h
  have h64 : n < 64 := h
  interval_cases n <;> rfl

/-- The word of a class is `Base(s) + x` (R66). -/
theorem encode_class {i : Instr} {n x : Nat} (h : i.classOf = some (n, x)) :
    encode i = some (BitVec.ofNat 32 (base n + x)) := by
  have key : ∀ (p k : Nat) (y : BitVec k), k ≤ 32 → p % 2 ^ k = 0 →
      (BitVec.ofNat 32 p ||| y.setWidth 32) + 1 = BitVec.ofNat 32 (p + 1 + y.toNat) := by
    intro p k y hk hp
    apply BitVec.eq_of_toNat_eq
    have hy : y.toNat < 2 ^ k := y.isLt
    have hp' : 2 ^ k * (p / 2 ^ k) = p := Nat.mul_div_cancel' (Nat.dvd_of_mod_eq_zero hp)
    have hor : p + y.toNat = p ||| y.toNat := by
      have := Nat.two_pow_add_eq_or_of_lt hy (p / 2 ^ k)
      rwa [hp'] at this
    have hor' : p % 2 ^ 32 ||| y.toNat = (p ||| y.toNat) % 2 ^ 32 := by
      rw [Nat.or_mod_two_pow, Nat.mod_eq_of_lt (a := y.toNat)
        (lt_of_lt_of_le hy (Nat.pow_le_pow_right (by decide) hk))]
    have hy32 : y.toNat % 2 ^ 32 = y.toNat :=
      Nat.mod_eq_of_lt (lt_of_lt_of_le hy (Nat.pow_le_pow_right (by decide) hk))
    simp only [BitVec.toNat_add, BitVec.toNat_or, BitVec.toNat_ofNat, BitVec.toNat_setWidth, hy32]
    rw [hor', ← hor]
    have one : (1 : Word).toNat = 1 := rfl
    rw [one]
    omega
  cases i
  all_goals first
    | (exfalso; simp [Instr.classOf] at h; done)
    | (simp only [Instr.classOf, Option.some.injEq, Prod.mk.injEq] at h
       obtain ⟨rfl, rfl⟩ := h
       first
         | rfl
         | (unfold encode
            exact congrArg some (key _ _ _ (by decide) (by decide))))

/-- Row `n` gives back the class instruction from its own word, operand and all. -/
theorem row_instr {i : Instr} {n x : Nat} {m : Word} (h : i.classOf = some (n, x)) (hn : n < classRows.length)
    (hm : m = BitVec.ofNat 32 (base n + x - 1)) : (classRows[n]).instr m = i := by
  subst hm
  cases i
  all_goals first
    | (exfalso; simp [Instr.classOf] at h; done)
    | (simp only [Instr.classOf, Option.some.injEq, Prod.mk.injEq] at h
       obtain ⟨rfl, rfl⟩ := h
       first
        | rfl
        | (rename_i y
           conv_lhs => whnf
           refine congrArg _ (BitVec.eq_of_toNat_eq ?_)
           have := y.isLt
           rw [BitVec.toNat_setWidth, BitVec.toNat_ofNat]
           simp [base]
           omega))

end Sys2Proof
end

