-- ==== Sys2Proof/Laws/Exec.lean ====
section
/-! SUPPORT. What an instruction and a step can do, said once: the evaluation of each class, the cases of exec, and the
cases of the step. -/

namespace Sys2Proof.Machine

/-! ### The classes -/

/-- A distance in the normal form is beyond the classic domain exactly when `l >= 15` (R80, R105). -/
theorem LogForm.extOf_eq {d l r x : Nat} (f : LogForm d l r x) : extOf d = decide (15 ≤ l) := by
  obtain ⟨b1, b2, b3⟩ := f.bounds
  unfold extOf classicMax
  by_cases h : 15 ≤ l
  · have : 2 ^ 15 ≤ 2 ^ l := Nat.pow_le_pow_right (by decide) h
    simp only [h, decide_true, decide_eq_true_eq]
    omega
  · have : 2 ^ (l + 1) ≤ 2 ^ 15 := Nat.pow_le_pow_right (by decide) (by omega)
    simp only [h, decide_false, decide_eq_false_iff_not]
    omega

/-- The constants of a row are those of R66, R85 and R93 for its symbol. -/
structure ClassConsts.Ok (c : ClassConsts) (n : Nat) : Prop where
  four_le : 4 ≤ n
  l_eq : c.l = n / 2
  r_eq : c.r.toNat = n % 2
  base_eq : c.base = Sys2Proof.Machine.base n
  sym_eq : c.sym = n
  ebits_eq : c.ebits = c.l - 1
  ext_eq : c.ext = decide (15 ≤ c.l)

theorem ClassConsts.Ok.logForm {c : ClassConsts} {n x : Nat} (ok : c.Ok n) (hx : x < 2 ^ (n / 2 - 1)) :
    LogForm (Sys2Proof.Machine.base n + x) (n / 2) (n % 2) x := by
  have h4 := ok.four_le
  have e : n = 2 * (n / 2) + n % 2 := by omega
  refine ⟨by omega, by omega, hx, ?_⟩
  conv_lhs => rw [e]
  rw [base_of_log (by omega) (by omega)]

/-- A log class is the evaluation of its distance, with the outputs of the three functions. -/
theorem logClass_eq {c : ClassConsts} {n x : Nat} {s : State} (ok : c.Ok n) (hx : x < 2 ^ (n / 2 - 1))
    (hp : onPort s.cfg.distW (base n + x) = true) :
    logClass c x s =
      .next (completeEvaluation (BitVec.ofNat 32 (base n + x)) (outputsOf (base n + x))
        (wiresOf (BitVec.ofNat 32 (base n + x)) s) s) := by
  have f := ok.logForm hx
  have hw : base n + x < 2 ^ s.cfg.distW.val := by simpa [onPort] using hp
  have h32 : base n + x < 2 ^ 32 := lt_of_lt_of_le hw (Nat.pow_le_pow_right (by decide) s.cfg.distW.hi)
  have eN : (BitVec.ofNat 32 (base n + x)).toNat = base n + x := toNat_ofNat_of_lt h32
  obtain ⟨g1, g2, g3⟩ := f.functions
  obtain ⟨b1, b2, b3⟩ := f.bounds
  have em : BitVec.ofNat 32 (base n + x) - 1 = BitVec.ofNat 32 (base n + x - 1) := by
    apply BitVec.eq_of_toNat_eq
    rw [pred_toNat (by rw [eN]; omega), eN, toNat_ofNat_of_lt (by omega)]
  have er : c.r = decide (n % 2 = 1) := by
    have := ok.r_eq
    cases hr : c.r <;> rw [hr] at this <;> simp at this <;> simp [← this]
  have h5 : ¬ base n + x < 5 := by omega
  have hs : isSmall (base n + x) = false := decide_eq_false h5
  have h1 : ¬ base n + x = 1 := by omega
  have e2 : 2 * (n / 2) + n % 2 = n := by omega
  have eo : outputsOf (base n + x) =
      { sym := BitVec.ofNat 6 c.sym, ebits := BitVec.ofNat 5 c.ebits, evalue := BitVec.ofNat 30 x, domErr := false,
        ext := c.ext } := by
    simp only [outputsOf, g1, g2, g3, f.extOf_eq, ok.sym_eq, ok.ebits_eq, ok.ext_eq, ok.l_eq, e2]
  have ew : wiresOf (BitVec.ofNat 32 (base n + x)) s =
      { m := BitVec.ofNat 32 (base n + x - 1), small := false, l := BitVec.ofNat 5 c.l, r := c.r,
        x := BitVec.ofNat 30 x } := by
    simp only [wiresOf, eN, em, hs, h1, h5, if_false, f.msb_eq, f.halfSelector_eq, f.extraSlice_eq, ok.l_eq, er]
  unfold logClass
  rw [ok.base_eq, hp, eo, ew]
  rfl

/-- A small class is the evaluation of its distance, with the outputs of the three functions. -/
theorem smallClass_eq {n : Nat} {l : PosBits} {s : State} (hn : n < 4)
    (hl : l = (wiresOf (BitVec.ofNat 32 (n + 1)) s).l) :
    smallClass (n + 1) n l s =
      .next (completeEvaluation (BitVec.ofNat 32 (n + 1)) (outputsOf (n + 1)) (wiresOf (BitVec.ofNat 32 (n + 1)) s) s) := by
  subst hl
  have eN : (BitVec.ofNat 32 (n + 1)).toNat = n + 1 := toNat_ofNat_of_lt (by omega)
  have em : BitVec.ofNat 32 (n + 1) - 1 = BitVec.ofNat 32 (n + 1 - 1) := by
    apply BitVec.eq_of_toNat_eq
    rw [pred_toNat (by rw [eN]; omega), eN, toNat_ofNat_of_lt (by omega)]
  obtain ⟨g1, g2, g3⟩ := small_functions (d := n + 1) (by omega)
  have h5 : n + 1 < 5 := by omega
  have hs : isSmall (n + 1) = true := decide_eq_true h5
  have hx : extOf (n + 1) = false := decide_eq_false (by unfold classicMax; omega)
  unfold smallClass
  simp only [outputsOf, g1, g2, g3, hx, wiresOf, eN, em, hs, h5, if_true]
  rfl

/-- Every class whose distance the port carries is the evaluation of that distance (R64 to R66). -/
theorem exec_class {i : Instr} {n x : Nat} {s : State} (h : i.classOf = some (n, x))
    (hp : onPort s.cfg.distW (base n + x) = true) :
    exec i s =
      .next (completeEvaluation (BitVec.ofNat 32 (base n + x)) (outputsOf (base n + x))
        (wiresOf (BitVec.ofNat 32 (base n + x)) s) s) := by
  cases i
  all_goals first
    | (exfalso; simp [Instr.classOf] at h; done)
    | (simp only [Instr.classOf, Option.some.injEq, Prod.mk.injEq] at h
       obtain ⟨rfl, rfl⟩ := h
       first
         | exact smallClass_eq (by decide) rfl
         | exact logClass_eq (by constructor <;> decide) (BitVec.isLt _) hp)

/-- The distance of a class is at least 1. -/
theorem one_le_base (n : Nat) : 1 ≤ base n := by
  unfold base
  split
  · omega
  · rw [Nat.add_assoc]; exact Nat.le_add_right _ _

/-- A class whose distance the port cannot carry is refused. -/
theorem exec_class_off {i : Instr} {n x : Nat} {s : State} (h : i.classOf = some (n, x))
    (hp : onPort s.cfg.distW (base n + x) = false) : exec i s = .refused .notOnPort := by
  have key : ∀ (c : ClassConsts) (y : Nat), onPort s.cfg.distW (c.base + y) = false →
      logClass c y s = .refused .notOnPort := by
    intro c y hc; simp [logClass, hc]
  have small : ∀ k, k < 5 → onPort s.cfg.distW k = true := by
    intro k hk
    have : 2 ^ 16 ≤ 2 ^ s.cfg.distW.val := Nat.pow_le_pow_right (by decide) s.cfg.distW.lo
    simp only [onPort, decide_eq_true_eq]; omega
  cases i
  all_goals first
    | (exfalso; simp [Instr.classOf] at h; done)
    | (simp only [Instr.classOf, Option.some.injEq, Prod.mk.injEq] at h
       obtain ⟨rfl, rfl⟩ := h
       first
         | exact absurd ((small _ (by decide)).symm.trans hp) (by decide)
         | exact key _ _ hp)

/-! ### Everything an instruction can do when it answers a next state -/

theorem exec_cases {i : Instr} {s t : State} (h : exec i s = .next t) :
    (i = .bitlen ∧ t = advanceDraws (bitlenUnit s)) ∨
    (i = .symmap ∧ t = advanceDraws (symmapUnit s)) ∨
    (i = .extract ∧ t = advanceDraws (extractUnit s)) ∨
    (encode i = some 0 ∧ t = takeDomainError s) ∨
    (∃ d, encode i = some d ∧ 1 ≤ d.toNat ∧ d.toNat < 2 ^ s.cfg.distW.val ∧
      t = completeEvaluation d (outputsOf d.toNat) (wiresOf d s) s) := by
  cases hc : i.classOf with
  | some p =>
    obtain ⟨n, x⟩ := p
    cases hp : onPort s.cfg.distW (base n + x) with
    | false => rw [exec_class_off hc hp] at h; cases h
    | true =>
      rw [exec_class hc hp] at h
      cases h
      have hw : base n + x < 2 ^ s.cfg.distW.val := by simpa [onPort] using hp
      have h32 : base n + x < 2 ^ 32 := lt_of_lt_of_le hw (Nat.pow_le_pow_right (by decide) s.cfg.distW.hi)
      have eN : (BitVec.ofNat 32 (base n + x)).toNat = base n + x := toNat_ofNat_of_lt h32
      have := one_le_base n
      refine .inr (.inr (.inr (.inr ⟨_, encode_class hc, ?_, ?_, ?_⟩)))
      · rw [eN]; omega
      · rw [eN]; exact hw
      · rw [eN]
  | none =>
    cases i with
    | encode d =>
      cases hp : onPort s.cfg.distW d.toNat with
      | false => exact absurd (h.symm.trans (execEncode_off hp)) (by intro e; cases e)
      | true =>
        by_cases h0 : d = 0
        · subst h0
          have e : Host.Outcome.next t = .next (takeDomainError s) := h.symm.trans (execEncode_zero s)
          cases e
          exact .inr (.inr (.inr (.inl ⟨rfl, rfl⟩)))
        · have h1 : 1 ≤ d.toNat := by
            rcases Nat.eq_zero_or_pos d.toNat with hz | hz
            · exact absurd (BitVec.eq_of_toNat_eq (by simpa using hz)) h0
            · exact hz
          have e : Host.Outcome.next t = .next _ := h.symm.trans (execEncode_pos hp h1)
          cases e
          exact .inr (.inr (.inr (.inr ⟨d, rfl, h1, by simpa [onPort] using hp, rfl⟩)))
    | bitlen => cases h; exact .inl ⟨rfl, rfl⟩
    | symmap => cases h; exact .inr (.inl ⟨rfl, rfl⟩)
    | extract => cases h; exact .inr (.inr (.inl ⟨rfl, rfl⟩))
    | domerr => cases h; exact .inr (.inr (.inr (.inl ⟨rfl, rfl⟩)))
    | _ => simp [Instr.classOf] at hc

/-! ### Everything a step can do when it answers a next state -/

theorem step_cases {s t : State} (h : step s = .next t) :
    (s.program = [] ∧ t = s) ∨
    (∃ rest, s.program = .systemReset :: rest ∧ t = { s with program := rest }) ∨
    (∃ hold rest, s.program = .drive none hold :: rest ∧ t = leaveUnsettled none 0 { s with program := rest }) ∨
    (∃ d hold rest, s.program = .drive (some d) hold :: rest ∧ heldAfter d hold s < s.cfg.tPd ∧
      d.toNat < 2 ^ s.cfg.distW.val ∧
      t = leaveUnsettled (some d) (heldAfter d hold s) { s with program := rest }) ∨
    (∃ d hold rest i, s.program = .drive (some d) hold :: rest ∧ s.cfg.tPd ≤ heldAfter d hold s ∧
      decode s.cfg.distW d = .instr i ∧ exec i { s with program := rest } = .next t) := by
  unfold step stepProgram at h
  match hp : s.program with
  | [] => rw [hp] at h; cases h; exact .inl ⟨rfl, rfl⟩
  | .systemReset :: rest => rw [hp] at h; cases h; exact .inr (.inl ⟨rest, rfl, rfl⟩)
  | .drive none hold :: rest => rw [hp] at h; cases h; exact .inr (.inr (.inl ⟨hold, rest, rfl, rfl⟩))
  | .drive (some d) hold :: rest =>
    rw [hp] at h
    simp only [present] at h
    by_cases hh : s.cfg.tPd ≤ heldAfter d hold s
    · have hh' : ({ s with program := rest } : State).cfg.tPd ≤ heldAfter d hold { s with program := rest } := hh
      rw [if_pos hh'] at h
      unfold runWord at h
      match hd : decode s.cfg.distW d with
      | .instr i =>
        rw [hd] at h
        exact .inr (.inr (.inr (.inr ⟨d, hold, rest, i, rfl, hh, hd, h⟩)))
      | .rejected .wordNotOnPort => rw [hd] at h; cases h
      | .rejected .noClassMatches => rw [hd] at h; cases h
    · have hh' : ¬ ({ s with program := rest } : State).cfg.tPd ≤ heldAfter d hold { s with program := rest } := hh
      rw [if_neg hh'] at h
      by_cases hq : d.toNat < 2 ^ s.cfg.distW.val
      · have hon : ¬ onPort ({ s with program := rest } : State).cfg.distW d.toNat = false := by simpa [onPort] using hq
        rw [if_neg hon] at h
        cases h
        exact .inr (.inr (.inr (.inl ⟨d, hold, rest, rfl, by omega, hq, rfl⟩)))
      · have hon : onPort ({ s with program := rest } : State).cfg.distW d.toNat = false := by simpa [onPort] using hq
        rw [if_pos hon] at h
        cases h

end Sys2Proof.Machine
end

