-- ==== Sys2Proof/Laws/PerInstr.lean ====
section
/-! SUPPORT. The family PayloadBound, one lemma per instruction: a class is one of the table's 64, and its operand has no
bit at or above the class's count of extra bits (R66, R98). -/

/-- A class instruction has a class number of the table and a slice of `EB(s)` bits. -/
def Sys2Proof.Laws.PayloadBound.Statement (i : Sys2Proof.Instr) : Prop :=
  ∀ n x, i.classOf = some (n, x) → n < 64 ∧ x < 2 ^ Sys2Proof.Machine.countOfSymbol n

theorem Sys2Proof.Laws.PayloadBound.of_none {i : Sys2Proof.Instr} (h : i.classOf = none) :
    Sys2Proof.Laws.PayloadBound.Statement i := by
  intro n x e; rw [h] at e; cases e

theorem Sys2Proof.Laws.PayloadBound.of_class {i : Sys2Proof.Instr} {n k : Nat} (x : BitVec k)
    (h : i.classOf = some (n, x.toNat)) (hn : n < 64) (hk : Sys2Proof.Machine.countOfSymbol n = k) :
    Sys2Proof.Laws.PayloadBound.Statement i := by
  intro n' x' e
  rw [h] at e
  cases e
  exact ⟨hn, hk ▸ x.isLt⟩

theorem Sys2Proof.Laws.PayloadBound.encode (dist : Sys2Proof.Word) :
    Sys2Proof.Laws.PayloadBound.Statement (.encode dist) := of_none rfl
theorem Sys2Proof.Laws.PayloadBound.bitlen : Sys2Proof.Laws.PayloadBound.Statement .bitlen := of_none rfl
theorem Sys2Proof.Laws.PayloadBound.symmap : Sys2Proof.Laws.PayloadBound.Statement .symmap := of_none rfl
theorem Sys2Proof.Laws.PayloadBound.extract : Sys2Proof.Laws.PayloadBound.Statement .extract := of_none rfl
theorem Sys2Proof.Laws.PayloadBound.domerr : Sys2Proof.Laws.PayloadBound.Statement .domerr := of_none rfl
theorem Sys2Proof.Laws.PayloadBound.dsym0 : Sys2Proof.Laws.PayloadBound.Statement .dsym0 := of_class (0 : BitVec 0) rfl (by decide) (by decide)
theorem Sys2Proof.Laws.PayloadBound.dsym1 : Sys2Proof.Laws.PayloadBound.Statement .dsym1 := of_class (0 : BitVec 0) rfl (by decide) (by decide)
theorem Sys2Proof.Laws.PayloadBound.dsym2 : Sys2Proof.Laws.PayloadBound.Statement .dsym2 := of_class (0 : BitVec 0) rfl (by decide) (by decide)
theorem Sys2Proof.Laws.PayloadBound.dsym3 : Sys2Proof.Laws.PayloadBound.Statement .dsym3 := of_class (0 : BitVec 0) rfl (by decide) (by decide)
theorem Sys2Proof.Laws.PayloadBound.dsym4 (x : BitVec 1) : Sys2Proof.Laws.PayloadBound.Statement (.dsym4 x) := of_class x rfl (by decide) (by decide)
theorem Sys2Proof.Laws.PayloadBound.dsym5 (x : BitVec 1) : Sys2Proof.Laws.PayloadBound.Statement (.dsym5 x) := of_class x rfl (by decide) (by decide)
theorem Sys2Proof.Laws.PayloadBound.dsym6 (x : BitVec 2) : Sys2Proof.Laws.PayloadBound.Statement (.dsym6 x) := of_class x rfl (by decide) (by decide)
theorem Sys2Proof.Laws.PayloadBound.dsym7 (x : BitVec 2) : Sys2Proof.Laws.PayloadBound.Statement (.dsym7 x) := of_class x rfl (by decide) (by decide)
theorem Sys2Proof.Laws.PayloadBound.dsym8 (x : BitVec 3) : Sys2Proof.Laws.PayloadBound.Statement (.dsym8 x) := of_class x rfl (by decide) (by decide)
theorem Sys2Proof.Laws.PayloadBound.dsym9 (x : BitVec 3) : Sys2Proof.Laws.PayloadBound.Statement (.dsym9 x) := of_class x rfl (by decide) (by decide)
theorem Sys2Proof.Laws.PayloadBound.dsym10 (x : BitVec 4) : Sys2Proof.Laws.PayloadBound.Statement (.dsym10 x) := of_class x rfl (by decide) (by decide)
theorem Sys2Proof.Laws.PayloadBound.dsym11 (x : BitVec 4) : Sys2Proof.Laws.PayloadBound.Statement (.dsym11 x) := of_class x rfl (by decide) (by decide)
theorem Sys2Proof.Laws.PayloadBound.dsym12 (x : BitVec 5) : Sys2Proof.Laws.PayloadBound.Statement (.dsym12 x) := of_class x rfl (by decide) (by decide)
theorem Sys2Proof.Laws.PayloadBound.dsym13 (x : BitVec 5) : Sys2Proof.Laws.PayloadBound.Statement (.dsym13 x) := of_class x rfl (by decide) (by decide)
theorem Sys2Proof.Laws.PayloadBound.dsym14 (x : BitVec 6) : Sys2Proof.Laws.PayloadBound.Statement (.dsym14 x) := of_class x rfl (by decide) (by decide)
theorem Sys2Proof.Laws.PayloadBound.dsym15 (x : BitVec 6) : Sys2Proof.Laws.PayloadBound.Statement (.dsym15 x) := of_class x rfl (by decide) (by decide)
theorem Sys2Proof.Laws.PayloadBound.dsym16 (x : BitVec 7) : Sys2Proof.Laws.PayloadBound.Statement (.dsym16 x) := of_class x rfl (by decide) (by decide)
theorem Sys2Proof.Laws.PayloadBound.dsym17 (x : BitVec 7) : Sys2Proof.Laws.PayloadBound.Statement (.dsym17 x) := of_class x rfl (by decide) (by decide)
theorem Sys2Proof.Laws.PayloadBound.dsym18 (x : BitVec 8) : Sys2Proof.Laws.PayloadBound.Statement (.dsym18 x) := of_class x rfl (by decide) (by decide)
theorem Sys2Proof.Laws.PayloadBound.dsym19 (x : BitVec 8) : Sys2Proof.Laws.PayloadBound.Statement (.dsym19 x) := of_class x rfl (by decide) (by decide)
theorem Sys2Proof.Laws.PayloadBound.dsym20 (x : BitVec 9) : Sys2Proof.Laws.PayloadBound.Statement (.dsym20 x) := of_class x rfl (by decide) (by decide)
theorem Sys2Proof.Laws.PayloadBound.dsym21 (x : BitVec 9) : Sys2Proof.Laws.PayloadBound.Statement (.dsym21 x) := of_class x rfl (by decide) (by decide)
theorem Sys2Proof.Laws.PayloadBound.dsym22 (x : BitVec 10) : Sys2Proof.Laws.PayloadBound.Statement (.dsym22 x) := of_class x rfl (by decide) (by decide)
theorem Sys2Proof.Laws.PayloadBound.dsym23 (x : BitVec 10) : Sys2Proof.Laws.PayloadBound.Statement (.dsym23 x) := of_class x rfl (by decide) (by decide)
theorem Sys2Proof.Laws.PayloadBound.dsym24 (x : BitVec 11) : Sys2Proof.Laws.PayloadBound.Statement (.dsym24 x) := of_class x rfl (by decide) (by decide)
theorem Sys2Proof.Laws.PayloadBound.dsym25 (x : BitVec 11) : Sys2Proof.Laws.PayloadBound.Statement (.dsym25 x) := of_class x rfl (by decide) (by decide)
theorem Sys2Proof.Laws.PayloadBound.dsym26 (x : BitVec 12) : Sys2Proof.Laws.PayloadBound.Statement (.dsym26 x) := of_class x rfl (by decide) (by decide)
theorem Sys2Proof.Laws.PayloadBound.dsym27 (x : BitVec 12) : Sys2Proof.Laws.PayloadBound.Statement (.dsym27 x) := of_class x rfl (by decide) (by decide)
theorem Sys2Proof.Laws.PayloadBound.dsym28 (x : BitVec 13) : Sys2Proof.Laws.PayloadBound.Statement (.dsym28 x) := of_class x rfl (by decide) (by decide)
theorem Sys2Proof.Laws.PayloadBound.dsym29 (x : BitVec 13) : Sys2Proof.Laws.PayloadBound.Statement (.dsym29 x) := of_class x rfl (by decide) (by decide)
theorem Sys2Proof.Laws.PayloadBound.dsym30 (x : BitVec 14) : Sys2Proof.Laws.PayloadBound.Statement (.dsym30 x) := of_class x rfl (by decide) (by decide)
theorem Sys2Proof.Laws.PayloadBound.dsym31 (x : BitVec 14) : Sys2Proof.Laws.PayloadBound.Statement (.dsym31 x) := of_class x rfl (by decide) (by decide)
theorem Sys2Proof.Laws.PayloadBound.dsym32 (x : BitVec 15) : Sys2Proof.Laws.PayloadBound.Statement (.dsym32 x) := of_class x rfl (by decide) (by decide)
theorem Sys2Proof.Laws.PayloadBound.dsym33 (x : BitVec 15) : Sys2Proof.Laws.PayloadBound.Statement (.dsym33 x) := of_class x rfl (by decide) (by decide)
theorem Sys2Proof.Laws.PayloadBound.dsym34 (x : BitVec 16) : Sys2Proof.Laws.PayloadBound.Statement (.dsym34 x) := of_class x rfl (by decide) (by decide)
theorem Sys2Proof.Laws.PayloadBound.dsym35 (x : BitVec 16) : Sys2Proof.Laws.PayloadBound.Statement (.dsym35 x) := of_class x rfl (by decide) (by decide)
theorem Sys2Proof.Laws.PayloadBound.dsym36 (x : BitVec 17) : Sys2Proof.Laws.PayloadBound.Statement (.dsym36 x) := of_class x rfl (by decide) (by decide)
theorem Sys2Proof.Laws.PayloadBound.dsym37 (x : BitVec 17) : Sys2Proof.Laws.PayloadBound.Statement (.dsym37 x) := of_class x rfl (by decide) (by decide)
theorem Sys2Proof.Laws.PayloadBound.dsym38 (x : BitVec 18) : Sys2Proof.Laws.PayloadBound.Statement (.dsym38 x) := of_class x rfl (by decide) (by decide)
theorem Sys2Proof.Laws.PayloadBound.dsym39 (x : BitVec 18) : Sys2Proof.Laws.PayloadBound.Statement (.dsym39 x) := of_class x rfl (by decide) (by decide)
theorem Sys2Proof.Laws.PayloadBound.dsym40 (x : BitVec 19) : Sys2Proof.Laws.PayloadBound.Statement (.dsym40 x) := of_class x rfl (by decide) (by decide)
theorem Sys2Proof.Laws.PayloadBound.dsym41 (x : BitVec 19) : Sys2Proof.Laws.PayloadBound.Statement (.dsym41 x) := of_class x rfl (by decide) (by decide)
theorem Sys2Proof.Laws.PayloadBound.dsym42 (x : BitVec 20) : Sys2Proof.Laws.PayloadBound.Statement (.dsym42 x) := of_class x rfl (by decide) (by decide)
theorem Sys2Proof.Laws.PayloadBound.dsym43 (x : BitVec 20) : Sys2Proof.Laws.PayloadBound.Statement (.dsym43 x) := of_class x rfl (by decide) (by decide)
theorem Sys2Proof.Laws.PayloadBound.dsym44 (x : BitVec 21) : Sys2Proof.Laws.PayloadBound.Statement (.dsym44 x) := of_class x rfl (by decide) (by decide)
theorem Sys2Proof.Laws.PayloadBound.dsym45 (x : BitVec 21) : Sys2Proof.Laws.PayloadBound.Statement (.dsym45 x) := of_class x rfl (by decide) (by decide)
theorem Sys2Proof.Laws.PayloadBound.dsym46 (x : BitVec 22) : Sys2Proof.Laws.PayloadBound.Statement (.dsym46 x) := of_class x rfl (by decide) (by decide)
theorem Sys2Proof.Laws.PayloadBound.dsym47 (x : BitVec 22) : Sys2Proof.Laws.PayloadBound.Statement (.dsym47 x) := of_class x rfl (by decide) (by decide)
theorem Sys2Proof.Laws.PayloadBound.dsym48 (x : BitVec 23) : Sys2Proof.Laws.PayloadBound.Statement (.dsym48 x) := of_class x rfl (by decide) (by decide)
theorem Sys2Proof.Laws.PayloadBound.dsym49 (x : BitVec 23) : Sys2Proof.Laws.PayloadBound.Statement (.dsym49 x) := of_class x rfl (by decide) (by decide)
theorem Sys2Proof.Laws.PayloadBound.dsym50 (x : BitVec 24) : Sys2Proof.Laws.PayloadBound.Statement (.dsym50 x) := of_class x rfl (by decide) (by decide)
theorem Sys2Proof.Laws.PayloadBound.dsym51 (x : BitVec 24) : Sys2Proof.Laws.PayloadBound.Statement (.dsym51 x) := of_class x rfl (by decide) (by decide)
theorem Sys2Proof.Laws.PayloadBound.dsym52 (x : BitVec 25) : Sys2Proof.Laws.PayloadBound.Statement (.dsym52 x) := of_class x rfl (by decide) (by decide)
theorem Sys2Proof.Laws.PayloadBound.dsym53 (x : BitVec 25) : Sys2Proof.Laws.PayloadBound.Statement (.dsym53 x) := of_class x rfl (by decide) (by decide)
theorem Sys2Proof.Laws.PayloadBound.dsym54 (x : BitVec 26) : Sys2Proof.Laws.PayloadBound.Statement (.dsym54 x) := of_class x rfl (by decide) (by decide)
theorem Sys2Proof.Laws.PayloadBound.dsym55 (x : BitVec 26) : Sys2Proof.Laws.PayloadBound.Statement (.dsym55 x) := of_class x rfl (by decide) (by decide)
theorem Sys2Proof.Laws.PayloadBound.dsym56 (x : BitVec 27) : Sys2Proof.Laws.PayloadBound.Statement (.dsym56 x) := of_class x rfl (by decide) (by decide)
theorem Sys2Proof.Laws.PayloadBound.dsym57 (x : BitVec 27) : Sys2Proof.Laws.PayloadBound.Statement (.dsym57 x) := of_class x rfl (by decide) (by decide)
theorem Sys2Proof.Laws.PayloadBound.dsym58 (x : BitVec 28) : Sys2Proof.Laws.PayloadBound.Statement (.dsym58 x) := of_class x rfl (by decide) (by decide)
theorem Sys2Proof.Laws.PayloadBound.dsym59 (x : BitVec 28) : Sys2Proof.Laws.PayloadBound.Statement (.dsym59 x) := of_class x rfl (by decide) (by decide)
theorem Sys2Proof.Laws.PayloadBound.dsym60 (x : BitVec 29) : Sys2Proof.Laws.PayloadBound.Statement (.dsym60 x) := of_class x rfl (by decide) (by decide)
theorem Sys2Proof.Laws.PayloadBound.dsym61 (x : BitVec 29) : Sys2Proof.Laws.PayloadBound.Statement (.dsym61 x) := of_class x rfl (by decide) (by decide)
theorem Sys2Proof.Laws.PayloadBound.dsym62 (x : BitVec 30) : Sys2Proof.Laws.PayloadBound.Statement (.dsym62 x) := of_class x rfl (by decide) (by decide)
theorem Sys2Proof.Laws.PayloadBound.dsym63 (x : BitVec 30) : Sys2Proof.Laws.PayloadBound.Statement (.dsym63 x) := of_class x rfl (by decide) (by decide)
end

