-- ==== Sys2Proof/Tests/Slice0.lean ====
section
/-! SUPPORT. The model's own tests: ill-formed terms, decoding of words written out from the spec, single evaluations with
the results of 95_test_vectors.md, and a witness for the hypotheses of every statement. -/

namespace Sys2Proof.Tests

open Sys2Proof.Machine

/-- A small state of a build, with `T_PD = 2`, nothing driven and nothing presented. -/
def testState (W : DistW) : State where
  cfg := { distW := W, tPd := 2 }
  dist := none
  held := 0
  out := { sym := 0, ebits := 0, evalue := 0, domErr := false, ext := false }
  wires := { m := 0, small := false, l := 0, r := false, x := 0 }
  program := []
  results := []
  faultRecord := []
  draws := 1

/-- The last sampled result of an outcome. -/
def lastSample : Host.Outcome State Fault Refusal → Option Sample
  | .next t => t.results.getLast?
  | .fault _ => none
  | .refused _ => none

/-- What an instruction samples on a build. -/
def sampleOn (W : DistW) (i : Instr) : Option Sample := lastSample (exec i (testState W))

/-- Whether an instruction is refused as not on the port. -/
def refusedOn (W : DistW) (i : Instr) : Bool :=
  match exec i (testState W) with
  | .refused .notOnPort => true
  | _ => false

/-! ### Well-formedness: an ill-formed term for each check -/

theorem test_wf_refuses_wide_word : (Instr.encode 65536).wf .classic = false := by decide
theorem test_wf_refuses_unreached_class : (Instr.dsym32 0).wf .classic = false := by decide
theorem test_wf_refuses_last_of_top_class :
    (Instr.dsym31 16383).wf .classic = false ∧ (Instr.dsym31 16382).wf .classic = true := by decide
theorem test_wf_refuses_last_of_top_class_extended :
    (Instr.dsym63 1073741823).wf .extended = false ∧ (Instr.dsym63 1073741822).wf .extended = true := by decide

/-! ### Decoding: for every class the word of its row of the opcode table, with the operand bits written out, and words on
the port -/

theorem test_decode_dsym0_to_dsym7 :
    decodeTableWord 32 0b00000000000000000000000000000000 = some .dsym0 ∧
    decodeTableWord 32 0b00000000000000000000000000000001 = some .dsym1 ∧
    decodeTableWord 32 0b00000000000000000000000000000010 = some .dsym2 ∧
    decodeTableWord 32 0b00000000000000000000000000000011 = some .dsym3 ∧
    decodeTableWord 32 0b00000000000000000000000000000101 = some (.dsym4 0b1) ∧
    decodeTableWord 32 0b00000000000000000000000000000111 = some (.dsym5 0b1) ∧
    decodeTableWord 32 0b00000000000000000000000000001010 = some (.dsym6 0b10) ∧
    decodeTableWord 32 0b00000000000000000000000000001110 = some (.dsym7 0b10) := by decide

theorem test_decode_dsym8_to_dsym15 :
    decodeTableWord 32 0b00000000000000000000000000010101 = some (.dsym8 0b101) ∧
    decodeTableWord 32 0b00000000000000000000000000011101 = some (.dsym9 0b101) ∧
    decodeTableWord 32 0b00000000000000000000000000101010 = some (.dsym10 0b1010) ∧
    decodeTableWord 32 0b00000000000000000000000000111010 = some (.dsym11 0b1010) ∧
    decodeTableWord 32 0b00000000000000000000000001010101 = some (.dsym12 0b10101) ∧
    decodeTableWord 32 0b00000000000000000000000001110101 = some (.dsym13 0b10101) ∧
    decodeTableWord 32 0b00000000000000000000000010101010 = some (.dsym14 0b101010) ∧
    decodeTableWord 32 0b00000000000000000000000011101010 = some (.dsym15 0b101010) := by decide

theorem test_decode_dsym16_to_dsym23 :
    decodeTableWord 32 0b00000000000000000000000101010101 = some (.dsym16 0b1010101) ∧
    decodeTableWord 32 0b00000000000000000000000111010101 = some (.dsym17 0b1010101) ∧
    decodeTableWord 32 0b00000000000000000000001010101010 = some (.dsym18 0b10101010) ∧
    decodeTableWord 32 0b00000000000000000000001110101010 = some (.dsym19 0b10101010) ∧
    decodeTableWord 32 0b00000000000000000000010101010101 = some (.dsym20 0b101010101) ∧
    decodeTableWord 32 0b00000000000000000000011101010101 = some (.dsym21 0b101010101) ∧
    decodeTableWord 32 0b00000000000000000000101010101010 = some (.dsym22 0b1010101010) ∧
    decodeTableWord 32 0b00000000000000000000111010101010 = some (.dsym23 0b1010101010) := by decide

theorem test_decode_dsym24_to_dsym31 :
    decodeTableWord 32 0b00000000000000000001010101010101 = some (.dsym24 0b10101010101) ∧
    decodeTableWord 32 0b00000000000000000001110101010101 = some (.dsym25 0b10101010101) ∧
    decodeTableWord 32 0b00000000000000000010101010101010 = some (.dsym26 0b101010101010) ∧
    decodeTableWord 32 0b00000000000000000011101010101010 = some (.dsym27 0b101010101010) ∧
    decodeTableWord 32 0b00000000000000000101010101010101 = some (.dsym28 0b1010101010101) ∧
    decodeTableWord 32 0b00000000000000000111010101010101 = some (.dsym29 0b1010101010101) ∧
    decodeTableWord 32 0b00000000000000001010101010101010 = some (.dsym30 0b10101010101010) ∧
    decodeTableWord 32 0b00000000000000001110101010101010 = some (.dsym31 0b10101010101010) := by decide

theorem test_decode_dsym32_to_dsym39 :
    decodeTableWord 32 0b00000000000000010101010101010101 = some (.dsym32 0b101010101010101) ∧
    decodeTableWord 32 0b00000000000000011101010101010101 = some (.dsym33 0b101010101010101) ∧
    decodeTableWord 32 0b00000000000000101010101010101010 = some (.dsym34 0b1010101010101010) ∧
    decodeTableWord 32 0b00000000000000111010101010101010 = some (.dsym35 0b1010101010101010) ∧
    decodeTableWord 32 0b00000000000001010101010101010101 = some (.dsym36 0b10101010101010101) ∧
    decodeTableWord 32 0b00000000000001110101010101010101 = some (.dsym37 0b10101010101010101) ∧
    decodeTableWord 32 0b00000000000010101010101010101010 = some (.dsym38 0b101010101010101010) ∧
    decodeTableWord 32 0b00000000000011101010101010101010 = some (.dsym39 0b101010101010101010) := by decide

theorem test_decode_dsym40_to_dsym47 :
    decodeTableWord 32 0b00000000000101010101010101010101 = some (.dsym40 0b1010101010101010101) ∧
    decodeTableWord 32 0b00000000000111010101010101010101 = some (.dsym41 0b1010101010101010101) ∧
    decodeTableWord 32 0b00000000001010101010101010101010 = some (.dsym42 0b10101010101010101010) ∧
    decodeTableWord 32 0b00000000001110101010101010101010 = some (.dsym43 0b10101010101010101010) ∧
    decodeTableWord 32 0b00000000010101010101010101010101 = some (.dsym44 0b101010101010101010101) ∧
    decodeTableWord 32 0b00000000011101010101010101010101 = some (.dsym45 0b101010101010101010101) ∧
    decodeTableWord 32 0b00000000101010101010101010101010 = some (.dsym46 0b1010101010101010101010) ∧
    decodeTableWord 32 0b00000000111010101010101010101010 = some (.dsym47 0b1010101010101010101010) := by decide

theorem test_decode_dsym48_to_dsym55 :
    decodeTableWord 32 0b00000001010101010101010101010101 = some (.dsym48 0b10101010101010101010101) ∧
    decodeTableWord 32 0b00000001110101010101010101010101 = some (.dsym49 0b10101010101010101010101) ∧
    decodeTableWord 32 0b00000010101010101010101010101010 = some (.dsym50 0b101010101010101010101010) ∧
    decodeTableWord 32 0b00000011101010101010101010101010 = some (.dsym51 0b101010101010101010101010) ∧
    decodeTableWord 32 0b00000101010101010101010101010101 = some (.dsym52 0b1010101010101010101010101) ∧
    decodeTableWord 32 0b00000111010101010101010101010101 = some (.dsym53 0b1010101010101010101010101) ∧
    decodeTableWord 32 0b00001010101010101010101010101010 = some (.dsym54 0b10101010101010101010101010) ∧
    decodeTableWord 32 0b00001110101010101010101010101010 = some (.dsym55 0b10101010101010101010101010) := by decide

theorem test_decode_dsym56_to_dsym63 :
    decodeTableWord 32 0b00010101010101010101010101010101 = some (.dsym56 0b101010101010101010101010101) ∧
    decodeTableWord 32 0b00011101010101010101010101010101 = some (.dsym57 0b101010101010101010101010101) ∧
    decodeTableWord 32 0b00101010101010101010101010101010 = some (.dsym58 0b1010101010101010101010101010) ∧
    decodeTableWord 32 0b00111010101010101010101010101010 = some (.dsym59 0b1010101010101010101010101010) ∧
    decodeTableWord 32 0b01010101010101010101010101010101 = some (.dsym60 0b10101010101010101010101010101) ∧
    decodeTableWord 32 0b01110101010101010101010101010101 = some (.dsym61 0b10101010101010101010101010101) ∧
    decodeTableWord 32 0b10101010101010101010101010101010 = some (.dsym62 0b101010101010101010101010101010) ∧
    decodeTableWord 32 0b11101010101010101010101010101010 = some (.dsym63 0b101010101010101010101010101010) := by decide

theorem test_decode_zero_is_domerr :
    decode .classic 0 = .instr .domerr ∧ decode .extended 0 = .instr .domerr := by decide
theorem test_decode_classic_top_word : decode .classic 0b1111111111111111 = .instr (.dsym31 16382) := by decide
theorem test_decode_rejects_wide_word : decode .classic 0b10000000000000000 = .rejected .wordNotOnPort := by decide
theorem test_encode_domerr_and_subunits :
    encode .domerr = some 0 ∧ encode .bitlen = none ∧ encode .symmap = none ∧ encode .extract = none := by decide

/-! ### ENCODE: the worked examples of the source (V1, V2) and the derived vectors of 95_test_vectors.md 2.4 to 2.7 -/

/-- V1, and 2 for the value at 16385. -/
theorem test_encode_source_examples :
    sampleOn .classic (.encode 1) = some (.ok 0 0 0 false) ∧
    sampleOn .classic (.encode 4) = some (.ok 3 0 0 false) ∧
    sampleOn .classic (.encode 5) = some (.ok 4 1 0 false) ∧
    sampleOn .classic (.encode 6) = some (.ok 4 1 1 false) ∧
    sampleOn .classic (.encode 7) = some (.ok 5 1 0 false) ∧
    sampleOn .classic (.encode 8) = some (.ok 5 1 1 false) ∧
    sampleOn .classic (.encode 9) = some (.ok 6 2 0 false) ∧
    sampleOn .classic (.encode 16385) = some (.ok 28 13 0 false) := by decide

/-- 2.7. -/
theorem test_encode_corners_extended :
    sampleOn .extended (.encode 32768) = some (.ok 29 13 8191 false) ∧
    sampleOn .extended (.encode 32769) = some (.ok 30 14 0 true) ∧
    sampleOn .extended (.encode 65536) = some (.ok 31 14 16383 true) ∧
    sampleOn .extended (.encode 65537) = some (.ok 32 15 0 true) ∧
    sampleOn .extended (.encode 2147483648) = some (.ok 61 29 536870911 true) ∧
    sampleOn .extended (.encode 2147483649) = some (.ok 62 30 0 true) ∧
    sampleOn .extended (.encode 4294967295) = some (.ok 63 30 1073741822 true) := by decide

/-- R119, 2.6: the fault, and no other record of it. -/
theorem test_encode_zero_faults :
    sampleOn .classic (.encode 0) = some (.fault .domainError) ∧
      sampleOn .classic .domerr = some (.fault .domainError) := by decide

/-! ### The sub-units, on signals set by hand (95_test_vectors.md 2.1 to 2.3) -/

/-- `dist = 300`: `m = 299`, log path, `l = 8` (R95's example). -/
def state300 : State :=
  { testState .classic with dist := some 300, wires := { m := 299, small := false, l := 8, r := false, x := 0 } }

/-- `dist = 3` on the small path (R84's example). -/
def state3 : State :=
  { testState .classic with dist := some 3, wires := { m := 2, small := true, l := 1, r := false, x := 0 } }

def wireL : Host.Outcome State Fault Refusal → Option PosBits
  | .next t => some t.wires.l
  | _ => none

def outNumbers : Host.Outcome State Fault Refusal → Option (SymBits × CountBits × PayloadBits)
  | .next t => some (t.out.sym, t.out.ebits, t.out.evalue)
  | _ => none

/-- 2.1: `x = 16384` gives 14, and `x = 4294967294` at `DIST_W = 32` gives 31. -/
theorem test_bitlen_positions :
    wireL (exec .bitlen { state300 with wires := { state300.wires with m := 16384 } }) = some 14 ∧
      wireL (exec .bitlen
        { testState .extended with wires := { state300.wires with m := 4294967294 } }) = some 31 := by decide
theorem test_symmap_300_and_3 :
    outNumbers (exec .symmap state300) = some (16, 0, 0) ∧ outNumbers (exec .symmap state3) = some (2, 0, 0) := by decide
theorem test_extract_300_and_3 :
    outNumbers (exec .extract state300) = some (0, 7, 43) ∧ outNumbers (exec .extract state3) = some (0, 0, 0) := by decide

/-! ### The classes: the first and the last distance of every bucket (95_test_vectors.md 2.5; 2.7 and the opcode table from
DSYM32 up, where the last is `2^ebits - 1`, and one less at DSYM63) -/

theorem test_exec_dsym0_to_dsym7 :
    sampleOn .extended .dsym0 = some (.ok 0 0 0 false) ∧
    sampleOn .extended .dsym1 = some (.ok 1 0 0 false) ∧
    sampleOn .extended .dsym2 = some (.ok 2 0 0 false) ∧
    sampleOn .extended .dsym3 = some (.ok 3 0 0 false) ∧
    sampleOn .extended (.dsym4 0) = some (.ok 4 1 0 false) ∧
    sampleOn .extended (.dsym4 1) = some (.ok 4 1 1 false) ∧
    sampleOn .extended (.dsym5 0) = some (.ok 5 1 0 false) ∧
    sampleOn .extended (.dsym5 1) = some (.ok 5 1 1 false) ∧
    sampleOn .extended (.dsym6 0) = some (.ok 6 2 0 false) ∧
    sampleOn .extended (.dsym6 3) = some (.ok 6 2 3 false) ∧
    sampleOn .extended (.dsym7 0) = some (.ok 7 2 0 false) ∧
    sampleOn .extended (.dsym7 3) = some (.ok 7 2 3 false) := by decide

theorem test_exec_dsym8_to_dsym15 :
    sampleOn .extended (.dsym8 0) = some (.ok 8 3 0 false) ∧
    sampleOn .extended (.dsym8 7) = some (.ok 8 3 7 false) ∧
    sampleOn .extended (.dsym9 0) = some (.ok 9 3 0 false) ∧
    sampleOn .extended (.dsym9 7) = some (.ok 9 3 7 false) ∧
    sampleOn .extended (.dsym10 0) = some (.ok 10 4 0 false) ∧
    sampleOn .extended (.dsym10 15) = some (.ok 10 4 15 false) ∧
    sampleOn .extended (.dsym11 0) = some (.ok 11 4 0 false) ∧
    sampleOn .extended (.dsym11 15) = some (.ok 11 4 15 false) ∧
    sampleOn .extended (.dsym12 0) = some (.ok 12 5 0 false) ∧
    sampleOn .extended (.dsym12 31) = some (.ok 12 5 31 false) ∧
    sampleOn .extended (.dsym13 0) = some (.ok 13 5 0 false) ∧
    sampleOn .extended (.dsym13 31) = some (.ok 13 5 31 false) ∧
    sampleOn .extended (.dsym14 0) = some (.ok 14 6 0 false) ∧
    sampleOn .extended (.dsym14 63) = some (.ok 14 6 63 false) ∧
    sampleOn .extended (.dsym15 0) = some (.ok 15 6 0 false) ∧
    sampleOn .extended (.dsym15 63) = some (.ok 15 6 63 false) := by decide

theorem test_exec_dsym16_to_dsym23 :
    sampleOn .extended (.dsym16 0) = some (.ok 16 7 0 false) ∧
    sampleOn .extended (.dsym16 127) = some (.ok 16 7 127 false) ∧
    sampleOn .extended (.dsym17 0) = some (.ok 17 7 0 false) ∧
    sampleOn .extended (.dsym17 127) = some (.ok 17 7 127 false) ∧
    sampleOn .extended (.dsym18 0) = some (.ok 18 8 0 false) ∧
    sampleOn .extended (.dsym18 255) = some (.ok 18 8 255 false) ∧
    sampleOn .extended (.dsym19 0) = some (.ok 19 8 0 false) ∧
    sampleOn .extended (.dsym19 255) = some (.ok 19 8 255 false) ∧
    sampleOn .extended (.dsym20 0) = some (.ok 20 9 0 false) ∧
    sampleOn .extended (.dsym20 511) = some (.ok 20 9 511 false) ∧
    sampleOn .extended (.dsym21 0) = some (.ok 21 9 0 false) ∧
    sampleOn .extended (.dsym21 511) = some (.ok 21 9 511 false) ∧
    sampleOn .extended (.dsym22 0) = some (.ok 22 10 0 false) ∧
    sampleOn .extended (.dsym22 1023) = some (.ok 22 10 1023 false) ∧
    sampleOn .extended (.dsym23 0) = some (.ok 23 10 0 false) ∧
    sampleOn .extended (.dsym23 1023) = some (.ok 23 10 1023 false) := by decide

theorem test_exec_dsym24_to_dsym31 :
    sampleOn .extended (.dsym24 0) = some (.ok 24 11 0 false) ∧
    sampleOn .extended (.dsym24 2047) = some (.ok 24 11 2047 false) ∧
    sampleOn .extended (.dsym25 0) = some (.ok 25 11 0 false) ∧
    sampleOn .extended (.dsym25 2047) = some (.ok 25 11 2047 false) ∧
    sampleOn .extended (.dsym26 0) = some (.ok 26 12 0 false) ∧
    sampleOn .extended (.dsym26 4095) = some (.ok 26 12 4095 false) ∧
    sampleOn .extended (.dsym27 0) = some (.ok 27 12 0 false) ∧
    sampleOn .extended (.dsym27 4095) = some (.ok 27 12 4095 false) ∧
    sampleOn .extended (.dsym28 0) = some (.ok 28 13 0 false) ∧
    sampleOn .extended (.dsym28 8191) = some (.ok 28 13 8191 false) ∧
    sampleOn .extended (.dsym29 0) = some (.ok 29 13 0 false) ∧
    sampleOn .extended (.dsym29 8191) = some (.ok 29 13 8191 false) ∧
    sampleOn .extended (.dsym30 0) = some (.ok 30 14 0 true) ∧
    sampleOn .extended (.dsym30 16383) = some (.ok 30 14 16383 true) ∧
    sampleOn .extended (.dsym31 0) = some (.ok 31 14 0 true) ∧
    sampleOn .extended (.dsym31 16383) = some (.ok 31 14 16383 true) := by decide

theorem test_exec_dsym32_to_dsym39 :
    sampleOn .extended (.dsym32 0) = some (.ok 32 15 0 true) ∧
    sampleOn .extended (.dsym32 32767) = some (.ok 32 15 32767 true) ∧
    sampleOn .extended (.dsym33 0) = some (.ok 33 15 0 true) ∧
    sampleOn .extended (.dsym33 32767) = some (.ok 33 15 32767 true) ∧
    sampleOn .extended (.dsym34 0) = some (.ok 34 16 0 true) ∧
    sampleOn .extended (.dsym34 65535) = some (.ok 34 16 65535 true) ∧
    sampleOn .extended (.dsym35 0) = some (.ok 35 16 0 true) ∧
    sampleOn .extended (.dsym35 65535) = some (.ok 35 16 65535 true) ∧
    sampleOn .extended (.dsym36 0) = some (.ok 36 17 0 true) ∧
    sampleOn .extended (.dsym36 131071) = some (.ok 36 17 131071 true) ∧
    sampleOn .extended (.dsym37 0) = some (.ok 37 17 0 true) ∧
    sampleOn .extended (.dsym37 131071) = some (.ok 37 17 131071 true) ∧
    sampleOn .extended (.dsym38 0) = some (.ok 38 18 0 true) ∧
    sampleOn .extended (.dsym38 262143) = some (.ok 38 18 262143 true) ∧
    sampleOn .extended (.dsym39 0) = some (.ok 39 18 0 true) ∧
    sampleOn .extended (.dsym39 262143) = some (.ok 39 18 262143 true) := by decide

theorem test_exec_dsym40_to_dsym47 :
    sampleOn .extended (.dsym40 0) = some (.ok 40 19 0 true) ∧
    sampleOn .extended (.dsym40 524287) = some (.ok 40 19 524287 true) ∧
    sampleOn .extended (.dsym41 0) = some (.ok 41 19 0 true) ∧
    sampleOn .extended (.dsym41 524287) = some (.ok 41 19 524287 true) ∧
    sampleOn .extended (.dsym42 0) = some (.ok 42 20 0 true) ∧
    sampleOn .extended (.dsym42 1048575) = some (.ok 42 20 1048575 true) ∧
    sampleOn .extended (.dsym43 0) = some (.ok 43 20 0 true) ∧
    sampleOn .extended (.dsym43 1048575) = some (.ok 43 20 1048575 true) ∧
    sampleOn .extended (.dsym44 0) = some (.ok 44 21 0 true) ∧
    sampleOn .extended (.dsym44 2097151) = some (.ok 44 21 2097151 true) ∧
    sampleOn .extended (.dsym45 0) = some (.ok 45 21 0 true) ∧
    sampleOn .extended (.dsym45 2097151) = some (.ok 45 21 2097151 true) ∧
    sampleOn .extended (.dsym46 0) = some (.ok 46 22 0 true) ∧
    sampleOn .extended (.dsym46 4194303) = some (.ok 46 22 4194303 true) ∧
    sampleOn .extended (.dsym47 0) = some (.ok 47 22 0 true) ∧
    sampleOn .extended (.dsym47 4194303) = some (.ok 47 22 4194303 true) := by decide

theorem test_exec_dsym48_to_dsym55 :
    sampleOn .extended (.dsym48 0) = some (.ok 48 23 0 true) ∧
    sampleOn .extended (.dsym48 8388607) = some (.ok 48 23 8388607 true) ∧
    sampleOn .extended (.dsym49 0) = some (.ok 49 23 0 true) ∧
    sampleOn .extended (.dsym49 8388607) = some (.ok 49 23 8388607 true) ∧
    sampleOn .extended (.dsym50 0) = some (.ok 50 24 0 true) ∧
    sampleOn .extended (.dsym50 16777215) = some (.ok 50 24 16777215 true) ∧
    sampleOn .extended (.dsym51 0) = some (.ok 51 24 0 true) ∧
    sampleOn .extended (.dsym51 16777215) = some (.ok 51 24 16777215 true) ∧
    sampleOn .extended (.dsym52 0) = some (.ok 52 25 0 true) ∧
    sampleOn .extended (.dsym52 33554431) = some (.ok 52 25 33554431 true) ∧
    sampleOn .extended (.dsym53 0) = some (.ok 53 25 0 true) ∧
    sampleOn .extended (.dsym53 33554431) = some (.ok 53 25 33554431 true) ∧
    sampleOn .extended (.dsym54 0) = some (.ok 54 26 0 true) ∧
    sampleOn .extended (.dsym54 67108863) = some (.ok 54 26 67108863 true) ∧
    sampleOn .extended (.dsym55 0) = some (.ok 55 26 0 true) ∧
    sampleOn .extended (.dsym55 67108863) = some (.ok 55 26 67108863 true) := by decide

theorem test_exec_dsym56_to_dsym63 :
    sampleOn .extended (.dsym56 0) = some (.ok 56 27 0 true) ∧
    sampleOn .extended (.dsym56 134217727) = some (.ok 56 27 134217727 true) ∧
    sampleOn .extended (.dsym57 0) = some (.ok 57 27 0 true) ∧
    sampleOn .extended (.dsym57 134217727) = some (.ok 57 27 134217727 true) ∧
    sampleOn .extended (.dsym58 0) = some (.ok 58 28 0 true) ∧
    sampleOn .extended (.dsym58 268435455) = some (.ok 58 28 268435455 true) ∧
    sampleOn .extended (.dsym59 0) = some (.ok 59 28 0 true) ∧
    sampleOn .extended (.dsym59 268435455) = some (.ok 59 28 268435455 true) ∧
    sampleOn .extended (.dsym60 0) = some (.ok 60 29 0 true) ∧
    sampleOn .extended (.dsym60 536870911) = some (.ok 60 29 536870911 true) ∧
    sampleOn .extended (.dsym61 0) = some (.ok 61 29 0 true) ∧
    sampleOn .extended (.dsym61 536870911) = some (.ok 61 29 536870911 true) ∧
    sampleOn .extended (.dsym62 0) = some (.ok 62 30 0 true) ∧
    sampleOn .extended (.dsym62 1073741823) = some (.ok 62 30 1073741823 true) ∧
    sampleOn .extended (.dsym63 0) = some (.ok 63 30 0 true) ∧
    sampleOn .extended (.dsym63 1073741822) = some (.ok 63 30 1073741822 true) := by decide

theorem test_classes_off_the_port_are_refused :
    refusedOn .classic (.dsym32 0) = true ∧ refusedOn .classic (.dsym31 16383) = true ∧
      refusedOn .classic (.dsym31 16382) = false ∧ refusedOn .classic (.encode 65536) = true := by decide

/-! ### The reference inverse (95_test_vectors.md 2.9) -/

/-- 95_test_vectors.md, end of section 2.9; `dec` alone is R107's. -/
theorem test_decOnPort_top :
    decOnPort .classic 31 16383 = none ∧ decOnPort .classic 31 16382 = some 65535 ∧
      decOnPort .extended 31 16383 = some 65536 ∧ decOnPort .classic 4 2 = none := by decide

/-- EXTRACT alone at `dist = 0` drives draws, which R119 leaves open. -/
theorem test_extract_at_zero_draws :
    exec .extract { state3 with dist := some 0 } =
      .next { state3 with
        dist := some 0
        wires := { state3.wires with x := drawX state3 }
        out := { state3.out with ebits := drawEbits state3, evalue := drawEvalue state3 }
        draws := state3.draws + 1 } := rfl

theorem test_dec_vectors :
    dec 0 0 = some 1 ∧ dec 3 0 = some 4 ∧ dec 4 1 = some 6 ∧ dec 16 43 = some 300 ∧ dec 27 4095 = some 16384 ∧
      dec 29 3 = some 24580 ∧ dec 31 16382 = some 65535 ∧ dec 4 2 = none := by decide

/-! ### Steps -/

/-- P3's operations, one at a time, and the ones around them (95_test_vectors.md P3, R140, R142). -/
def stepWith (a : HostAction) : Host.Outcome State Fault Refusal := step { testState .classic with program := [a] }

theorem test_step_samples :
    lastSample (stepWith (.drive (some 32769) 2)) = some (.ok 30 14 0 true) ∧
      lastSample (stepWith (.drive (some 0) 2)) = some (.fault .domainError) ∧
      lastSample (stepWith (.drive (some 9) 1)) = some .unspecified ∧
      lastSample (stepWith (.drive none 5)) = some .unspecified ∧
      lastSample (stepWith .systemReset) = none := by decide

/-- The first step after reset on a placed table word: DSYM63's, DSYM0's, and the one left over, DOMERR's (log 15). -/
theorem test_placed_words_run_first :
    lastSample (step (State.reset.withFetchWord 32 0b11000000000000000000000000000000)) = some (.ok 63 30 0 true) ∧
      lastSample (step (State.reset.withFetchWord 32 0)) = some (.ok 0 0 0 false) ∧
      lastSample (step (State.reset.withFetchWord 32 4294967295)) = some (.fault .domainError) := by decide

/-! ### Witnesses: for every statement with hypotheses, inputs that meet them; one for each clause -/

/-- A state whose next operation is `a`, with one more behind it. -/
def before (a : HostAction) : State := { testState .classic with program := [a, .systemReset] }

theorem witness_StepRunsTheDecodedWord :
    (before (.drive (some 7) 2)).program = [.drive (some 7) 2, .systemReset] ∧
      (before (.drive (some 7) 2)).cfg.tPd ≤ 2 ∧ decode .classic 7 = .instr (.dsym5 0) := by decide

theorem witness_EncodeFollowsItsPseudocode :
    onPort .classic (0 : Word).toNat = true ∧ onPort .classic (1 : Word).toNat = true ∧
      onPort .classic (4 : Word).toNat = true ∧
      (onPort .classic (5 : Word).toNat = true ∧ 2 ^ 2 ≤ (5 : Word).toNat - 1 ∧ (5 : Word).toNat - 1 < 2 ^ 3) ∧
      (onPort .classic (65535 : Word).toNat = true ∧ 2 ^ 15 ≤ (65535 : Word).toNat - 1 ∧
        (65535 : Word).toNat - 1 < 2 ^ 16) := by decide

theorem witness_words_of_the_port :
    (onPort .classic (1 : Word).toNat = true ∧ 1 ≤ (1 : Word).toNat) ∧
      (onPort .classic (65535 : Word).toNat = true ∧ 1 ≤ (65535 : Word).toNat) ∧
      (onPort .extended (4294967295 : Word).toNat = true ∧ 1 ≤ (4294967295 : Word).toNat) := by decide

theorem witness_EncodeServesTheThreeFunctions :
    onPort (testState .classic).cfg.distW (65535 : Word).toNat = true ∧ 1 ≤ (65535 : Word).toNat := by decide

theorem witness_EncodeSplitsTheWordIntoItsFields :
    onPort (testState .classic).cfg.distW (5 : Word).toNat = true ∧ 1 ≤ (5 : Word).toNat ∧
      ∃ t, exec (.encode 5) (testState .classic) = .next t ∧ t.wires.small = false :=
  ⟨by decide, by decide, _, rfl, by decide⟩

theorem witness_FlagsFollowThePresentInput :
    onPort (testState .classic).cfg.distW (0 : Word).toNat = true ∧
      onPort (testState .classic).cfg.distW (32768 : Word).toNat = true ∧
      onPort (testState .classic).cfg.distW (32769 : Word).toNat = true := by decide

theorem witness_SmallClassesMapStraightToTheirSymbol :
    (Instr.dsym0.classOf = some (0, 0) ∧ 0 < 4) ∧ (Instr.dsym3.classOf = some (3, 0) ∧ 3 < 4) := by decide

theorem witness_LogClassesGiveTheirRow :
    ((Instr.dsym4 1).classOf = some (4, 1) ∧ 4 ≤ 4 ∧ (Instr.dsym4 1).wf (testState .classic).cfg.distW = true) ∧
      ((Instr.dsym63 1073741822).classOf = some (63, 1073741822) ∧ 4 ≤ 63 ∧
        (Instr.dsym63 1073741822).wf (testState .extended).cfg.distW = true) := by decide

theorem witness_WordsOffThePortAreRefused :
    (Instr.dsym31 16383).wf (testState .classic).cfg.distW = false ∧
      (Instr.encode 65536).wf (testState .classic).cfg.distW = false := by decide

theorem witness_BitlenDrivesTheHighestSetBit :
    (state300.wires.m.toNat < 2 ^ state300.cfg.distW.val ∧ 2 ^ 8 ≤ state300.wires.m.toNat ∧
        state300.wires.m.toNat < 2 ^ 9) ∧
      (testState .classic).wires.m = 0 := by decide

theorem witness_SymmapSmallPathDrivesDistMinusOne :
    state3.wires.small = true ∧ state3.dist = some 3 ∧ 1 ≤ (3 : Word).toNat ∧ (3 : Word).toNat ≤ 4 := by decide

theorem witness_SymmapLogPathDrivesTwiceLPlusR :
    state300.wires.small = false ∧ 2 ≤ state300.wires.l.toNat ∧
      state300.wires.l.toNat < state300.cfg.distW.val := by decide

theorem witness_ExtractSmallPathDrivesNoExtraBits :
    state3.wires.small = true ∧ state3.dist = some 3 ∧ 1 ≤ (3 : Word).toNat ∧ (3 : Word).toNat ≤ 4 := by decide

theorem witness_ExtractLogPathDrivesCountAndValue :
    state300.wires.small = false ∧ state300.dist = some 300 ∧ 2 ≤ state300.wires.l.toNat ∧
      state300.wires.l.toNat < state300.cfg.distW.val ∧ 1 + 2 ^ state300.wires.l.toNat ≤ (300 : Word).toNat := by decide

theorem witness_EvaluationAddsOneResultAndNothingElse :
    (encode (.dsym5 0) ≠ none ∧ ∃ t, exec (.dsym5 0) (testState .classic) = .next t) ∧
      (encode .domerr ≠ none ∧ ∃ t, exec .domerr (testState .classic) = .next t) :=
  ⟨⟨by decide, _, rfl⟩, ⟨by decide, _, rfl⟩⟩

/-- Meets the hypothesis of RecordsAreNeverCleared and NoStepChangesTheParameters. -/
theorem witness_a_step_answers_next :
    (∃ t, step (before (.drive (some 0) 2)) = .next t) ∧ (∃ t, step (before (.drive none 0)) = .next t) :=
  ⟨⟨_, rfl⟩, ⟨_, rfl⟩⟩

theorem witness_RecordsAreNeverCleared_NoStepChangesTheParameters :
    (∃ t, step (before (.drive (some 0) 2)) = .next t) ∧ (∃ t, step (before (.drive none 2)) = .next t) ∧
      (∃ t, step (before .systemReset) = .next t) ∧ ∃ t, step (testState .classic) = .next t :=
  ⟨⟨_, rfl⟩, ⟨_, rfl⟩, ⟨_, rfl⟩, ⟨_, rfl⟩⟩

theorem witness_OnlyZeroIsRecordedAsAFault :
    ∃ t, step (before (.drive (some 0) 2)) = .next t ∧ t.faultRecord ≠ (before (.drive (some 0) 2)).faultRecord :=
  ⟨_, rfl, by decide⟩

theorem witness_DomErrFallsAtTheNextNonzeroWord :
    (before (.drive (some 1) 2)).program = .drive (some 1) 2 :: [.systemReset] ∧
      (before (.drive (some 1) 2)).cfg.tPd ≤ 2 ∧ 1 ≤ (1 : Word).toNat ∧
      onPort (before (.drive (some 1) 2)).cfg.distW (1 : Word).toNat = true := by decide

/-- The port already carries 7 for 1 of the 2 units, and is held for 1 more. -/
def held7 : State := { before (.drive (some 7) 1) with dist := some 7, held := 1 }

/-- One witness for each clause; the second holds the word on for no time at all. -/
theorem witness_EarlySampleIsUnspecified :
    ((before (.drive (some 7) 1)).program = .drive (some 7) 1 :: [.systemReset] ∧
      onPort (before (.drive (some 7) 1)).cfg.distW (7 : Word).toNat = true ∧
      (before (.drive (some 7) 1)).dist ≠ some 7 ∧ 1 < (before (.drive (some 7) 1)).cfg.tPd) ∧
    ({ held7 with program := [.drive (some 7) 0] } : State).program = .drive (some 7) 0 :: [] ∧
      onPort held7.cfg.distW (7 : Word).toNat = true ∧ held7.dist = some 7 ∧ held7.held + 0 < held7.cfg.tPd := by decide

theorem witness_HoldingOnSettlesTheOutputs :
    held7.program = .drive (some 7) 1 :: [.systemReset] ∧ held7.dist = some 7 ∧ held7.cfg.tPd ≤ held7.held + 1 ∧
      onPort held7.cfg.distW (7 : Word).toNat = true := by decide

theorem witness_UndefinedInputIsUnspecified :
    (before (.drive none 5)).program = .drive none 5 :: [.systemReset] := by decide

theorem witness_SystemResetHasNoEffect :
    (before .systemReset).program = .systemReset :: [.systemReset] := by decide

theorem witness_DecodeOfEncodeGivesTheClassBack :
    ((Instr.dsym31 16382).classOf ≠ none ∧ (Instr.dsym31 16382).wf .classic = true) ∧
      Instr.domerr.wf .classic = true := by decide

theorem witness_EveryWordDecodesToTheClassOfItsSymbol :
    onPort .classic (0 : Word).toNat = true ∧ onPort .classic (1 : Word).toNat = true ∧
      onPort .classic (65535 : Word).toNat = true := by decide

theorem witness_ClassRowsMatchExactlyTheirDistances :
    classRows[3]?.isSome = true ∧ classRows[4]?.isSome = true ∧ classRows[63]?.isSome = true := by decide

theorem witness_ReachedClassesAreThoseOfThePort :
    0 < 2 ^ countOfSymbol 3 ∧ 16383 < 2 ^ countOfSymbol 31 ∧ 0 < 2 ^ countOfSymbol 32 := by decide

/-- Meets the hypotheses of ClassDecodeAgreesWithEncode and ResultsDependOnlyOnTheirOwnInput, for the two profiles. -/
theorem witness_a_word_two_builds_carry :
    onPort (testState .classic).cfg.distW (65535 : Word).toNat = true ∧
      onPort (testState .extended).cfg.distW (65535 : Word).toNat = true := by decide

/-- A settled state: `dist = 7`, held for `T_PD`, with R101's outputs and signals. -/
def settled7 : State :=
  { before (.drive (some 9) 2) with
    dist := some 7
    held := 2
    out := { sym := 5, ebits := 1, evalue := 0, domErr := false, ext := false }
    wires := { m := 6, small := false, l := 2, r := true, x := 0 } }

theorem settled7_inv : settled7.Inv where
  dist_fits := by intro d h; cases h; decide
  sym_fits := by decide
  ebits_fits := by decide
  evalue_fits := by decide
  m_fits := by decide
  l_fits := by decide
  x_fits := by decide
  held_le := by decide
  agrees := by
    intro _ d h
    cases h
    exact ⟨by decide, by decide, by decide, fun _ => by decide, fun _ => by decide, fun _ => by decide⟩
  record := by decide

theorem witness_EveryStepKeepsTheInvariant : settled7.Inv ∧ settled7.settled = true ∧ ∃ t, step settled7 = .next t :=
  ⟨settled7_inv, by decide, _, rfl⟩

theorem witness_EveryInstructionKeepsTheInvariant :
    settled7.Inv ∧ (∃ t, exec .symmap settled7 = .next t) ∧ ∃ t, exec (.dsym5 0) settled7 = .next t :=
  ⟨settled7_inv, ⟨_, rfl⟩, ⟨_, rfl⟩⟩

/-- The words of P1 (95_test_vectors.md), as a program; the holds are from `T_PD` up. -/
theorem witness_ProgramSamplesEachWordInOrder :
    let ps : List (Word × Nat) := [(1, 2), (5, 3), (300, 2), (32768, 7)]
    let s : State := { testState .classic with program := ps.map (fun p => .drive (some p.1) p.2) }
    (∀ p ∈ ps, onPort s.cfg.distW p.1.toNat = true ∧ s.cfg.tPd ≤ p.2) ∧
      s.program = ps.map (fun p => HostAction.drive (some p.1) p.2) :=
  ⟨by simp [onPort, testState, DistW.classic], rfl⟩

theorem witness_ClassDecodeAgreesWithEncode_ResultsDependOnlyOnTheirOwnInput :
    (onPort (testState .classic).cfg.distW (0 : Word).toNat = true ∧
      onPort (testState .extended).cfg.distW (0 : Word).toNat = true) ∧
    (onPort (testState .classic).cfg.distW (65535 : Word).toNat = true ∧
      onPort (testState .extended).cfg.distW (65535 : Word).toNat = true) := by decide

theorem witness_RoundTripThroughTheReferenceInverse :
    onPort (testState .classic).cfg.distW (24580 : Word).toNat = true ∧ 1 ≤ (24580 : Word).toNat := by decide

theorem witness_EncodeInvertsTheReferenceInverse :
    dec 31 16382 = some 65535 ∧ onPort (testState .classic).cfg.distW 65535 = true := by decide

theorem witness_PortsHoldEveryOutput : 1 ≤ 1 ∧ 1 ≤ maxDist .classic ∧ 2 ≤ maxDist .classic := by
  simp [maxDist, DistW.classic]

theorem witness_MsbIsTheHighestSetBit : 1 ≤ 65535 ∧ 65535 < 2 ^ 16 := by decide

theorem witness_BitPositionRanges :
    (1 ≤ 65535 ∧ 65535 < 2 ^ DistW.classic.val ∧ 4 ≤ 65535) ∧ (5 ≤ 16385 ∧ 16385 ≤ 32768) ∧ 32768 < 32769 ∧ 3 ≤ 3 := by
  decide

theorem witness_ClassicAndExtendedRanges :
    (1 ≤ 32768 ∧ 32768 ≤ 32768) ∧ (32768 < 32769 ∧ 32769 ≤ maxDist .classic) := by decide

theorem witness_SymbolAndCountAreMonotone : 1 ≤ 4 ∧ 4 < 5 := by decide

theorem witness_SymbolStepsByOneAtEachBase :
    (1 ≤ 4 ∧ 4 + 1 = base 4) ∧ (1 ≤ 6 ∧ 6 + 1 = base 5) ∧ (1 ≤ 5 ∧ ∀ n, 5 + 1 ≠ base n) := by
  refine ⟨by decide, by decide, by decide, fun n h => ?_⟩
  by_cases h6 : n < 6
  · have : ∀ k, k < 6 → 5 + 1 ≠ base k := by decide
    exact this n h6 h
  · have h8 : 2 ^ 3 ≤ 2 ^ (n / 2) := Nat.pow_le_pow_right (by decide) (by omega)
    have hb : 1 + 2 ^ (n / 2) ≤ base n := by
      simp only [base, show ¬ n < 4 by omega, if_false, Nat.shiftLeft_eq, Nat.one_mul]
      exact Nat.le_add_right _ _
    omega

theorem witness_ThresholdMayBeThreeFourOrFive : 3 ≤ 3 ∧ 3 ≤ 4 ∧ 3 ≤ 5 := by decide

theorem witness_ValueIsTheSliceBelowTheSelector : 5 ≤ 5 ∧ extraBitValue 300 = 43 := by decide

theorem witness_ValueFitsInItsCount :
    onPort (testState .classic).cfg.distW (65535 : Word).toNat = true ∧ 1 ≤ (65535 : Word).toNat := by decide

theorem witness_DistanceIsSymbolPlusValue : 5 ≤ 5 ∧ 5 ≤ 24580 := by decide

theorem witness_FourFormsOfTheExtTest : 1 ≤ 1 ∧ 1 ≤ 32768 ∧ 1 ≤ 32769 := by decide

theorem witness_BucketsHoldTheirDistances :
    29 ≤ 29 ∧ 30 < 2 * DistW.classic.val ∧ 30 ≠ 2 * DistW.classic.val - 1 ∧ 31 = 2 * DistW.classic.val - 1 ∧
      (1 ≤ 65535 ∧ 65535 ≤ maxDist .classic) := by decide

theorem witness_EveryLawHoldsOverTheWholeDomain :
    (1 ≤ 65535 ∧ 65535 ≤ maxDist (testState .classic).cfg.distW) ∧
      1 ≤ 4294967295 ∧ 4294967295 ≤ maxDist (testState .extended).cfg.distW := by decide

theorem witness_SymbolAndValueDetermineTheDistance :
    1 ≤ 7 ∧ distanceSymbol 7 = distanceSymbol 7 ∧ extraBitValue 7 = extraBitValue 7 := by decide

end Sys2Proof.Tests
end

section
/-! PROOFS of the scope family, first part: `msb` as the highest set bit and the port widths (R8, R14). -/

namespace Sys2Proof.Machine

/-! ### msb and clz (R14) -/

theorem msb_eq_iff {x l : Nat} (h : 1 ≤ x) : msb x = l ↔ 2 ^ l ≤ x ∧ x < 2 ^ (l + 1) :=
  Nat.log2_eq_iff (by omega)

/-- The leading zeros, the highest set bit and the bits below it make up the whole word. -/
theorem clz_add_msb {n x : Nat} (h1 : 1 ≤ x) (hx : x < 2 ^ n) : clz n x + 1 + msb x = n := by
  induction n with
  | zero => omega
  | succ n ih =>
    by_cases hn : x < 2 ^ n
    · have hbit : bitAt x n = 0 := by simp [bitAt, Nat.div_eq_of_lt hn]
      have := ih hn
      simp only [clz, hbit, Nat.zero_ne_one, if_false]
      omega
    · have hmsb : msb x = n := msb_unique (by omega) hx
      have hquot : x / 2 ^ n = 1 := Nat.div_eq_of_lt_le (by omega) (by rw [Nat.pow_succ'] at hx; omega)
      have hbit : bitAt x n = 1 := by simp [bitAt, hquot]
      simp only [clz, hbit, if_true]
      omega

/-- Settles O41: the range by `Nat.log2`, and the form with `clz` by induction on the width. -/
theorem msbIsTheHighestSetBit : Obligations.MsbIsTheHighestSetBit := by
  intro x h1
  refine ⟨fun l => msb_eq_iff h1, fun n hx => ?_⟩
  have := clz_add_msb h1 hx
  omega

/-! ### Port widths (R8) -/

/-- The position that BITLEN gives for a distance of the port fits the signal `l`. -/
theorem msb_pred_fits {W : DistW} {d : Nat} (h2 : 2 ≤ d) (hp : d < 2 ^ W.val) : msb (d - 1) < 2 ^ lW W := by
  have : msb (d - 1) < W.val := msb_lt_of_lt (by omega) (by omega)
  exact lt_lW (by omega)

/-- `MAX_DIST` is the last distance but one of the last bucket: `l = DIST_W - 1`, `r = 1` (R10, R67). -/
theorem maxDist_logForm (W : DistW) : LogForm (maxDist W) (W.val - 1) 1 (2 ^ (W.val - 2) - 2) := by
  have lo := W.lo
  have hl : 2 ^ W.val = 2 * 2 ^ (W.val - 1) := two_pow_pred (by omega)
  have hr : 2 ^ (W.val - 1) = 2 * 2 ^ (W.val - 2) := two_pow_pred (l := W.val - 1) (by omega)
  have hx : 4 ≤ 2 ^ (W.val - 2) := four_le_two_pow (by omega)
  have e : W.val - 1 - 1 = W.val - 2 := by omega
  refine ⟨by omega, le_rfl, ?_, ?_⟩
  · rw [e]; omega
  · rw [e, maxDist]; omega

/-- Settles O40: every value fits by its normal form, and the maxima are those of the form of `MAX_DIST`. -/
theorem portsHoldEveryOutput : Obligations.PortsHoldEveryOutput := by
  refine ⟨fun W => ⟨⟨rfl, rfl, rfl, rfl⟩, ?_, ?_⟩, by decide, by decide⟩
  · intro d h1 hmax
    have hp : d < 2 ^ W.val := by have := Nat.two_pow_pos W.val; unfold maxDist at hmax; omega
    exact ⟨symbol_fits hp, count_fits hp, value_fits hp, fun h2 => msb_pred_fits h2 hp⟩
  · have lo := W.lo
    obtain ⟨hsym, hcount, -⟩ := (maxDist_logForm W).functions
    rw [hsym, hcount]
    omega

end Sys2Proof.Machine
end

section
/-! PROOFS of the scope family, second part: every instruction and every step keeps the invariant. The key fact is that a
sub-unit, run on the signals of a settled evaluation, drives again what the evaluation drove. -/

namespace Sys2Proof.Machine

/-! ### The fault record (R128) -/

theorem faultsFrom_append (k : Nat) (xs ys : List Sample) :
    faultsFrom k (xs ++ ys) = faultsFrom k xs ++ faultsFrom (k + xs.length) ys := by
  induction xs generalizing k with
  | nil => rfl
  | cons x xs ih =>
    have e : k + (x :: xs).length = k + 1 + xs.length := by rw [List.length_cons]; omega
    rw [e]
    cases x with
    | fault f => exact congrArg (k :: ·) (ih (k + 1))
    | ok y b v e => exact ih (k + 1)
    | unspecified => exact ih (k + 1)

theorem faultsFrom_append_fault (xs : List Sample) (f : Fault) :
    faultsFrom 1 (xs ++ [.fault f]) = faultsFrom 1 xs ++ [xs.length + 1] := by
  rw [faultsFrom_append, Nat.add_comm 1]; rfl

theorem faultsFrom_append_ok (xs : List Sample) (o : OutPorts) :
    faultsFrom 1 (xs ++ [sampleOf o]) = faultsFrom 1 xs := by
  rw [faultsFrom_append]; exact List.append_nil _

theorem faultsFrom_append_unspecified (xs : List Sample) :
    faultsFrom 1 (xs ++ [.unspecified]) = faultsFrom 1 xs := by
  rw [faultsFrom_append]; exact List.append_nil _

/-! ### Settled outputs: the two cases of the word on the port -/

theorem outputsAgree_zero {s : State} : OutputsAgree 0 s ↔ s.out.domErr = true ∧ s.out.ext = false := by
  rw [OutputsAgree, if_pos rfl]

theorem outputsAgree_pos {d : Word} {s : State} (h1 : 1 ≤ d.toNat) :
    OutputsAgree d s ↔ s.out = outputsOf d.toNat ∧ WiresAgree d s.wires := by
  have h0 : ¬ d = 0 := by rintro rfl; simp at h1
  rw [OutputsAgree, if_neg h0]

/-- A change of the state that leaves the flags, and keeps what an evaluation of `d >= 1` drove, keeps the agreement. -/
theorem OutputsAgree.of_flags_eq {d : Word} {s t : State} (h : OutputsAgree d s)
    (hdom : t.out.domErr = s.out.domErr) (hext : t.out.ext = s.out.ext)
    (hpos : 1 ≤ d.toNat → s.out = outputsOf d.toNat → WiresAgree d s.wires →
      t.out = outputsOf d.toNat ∧ WiresAgree d t.wires) : OutputsAgree d t := by
  by_cases h0 : d = 0
  · subst h0
    rw [outputsAgree_zero] at h ⊢
    rwa [hdom, hext]
  · have h1 : 1 ≤ d.toNat := Nat.one_le_iff_ne_zero.2 fun e => h0 (BitVec.eq_of_toNat_eq (by simpa using e))
    rw [outputsAgree_pos h1] at h ⊢
    exact hpos h1 h.1 h.2

/-! ### What a sub-unit drives on the signals of an evaluation (R58 to R63, R104) -/

section SettledSignals

variable {d : Word} {s : State} (hw : WiresAgree d s.wires) (hp : d.toNat < 2 ^ s.cfg.distW.val)
include hw

theorem WiresAgree.m_toNat (h1 : 1 ≤ d.toNat) : s.wires.m.toNat = d.toNat - 1 := by
  rw [hw.m_eq, pred_toNat h1]

theorem WiresAgree.small_of_lt (h5 : d.toNat < 5) : s.wires.small = true :=
  hw.small_eq.trans (decide_eq_true h5)

theorem WiresAgree.not_small_of_le (h5 : 5 ≤ d.toNat) : s.wires.small = false :=
  hw.small_eq.trans (decide_eq_false (by omega))

include hp

/-- On the log path the signal `l` holds the `l` of the normal form, a bit position of the build. -/
theorem WiresAgree.l_toNat (h5 : 5 ≤ d.toNat) :
    s.wires.l.toNat = msb (d.toNat - 1) ∧ 1 ≤ s.wires.l.toNat ∧ s.wires.l.toNat < s.cfg.distW.val := by
  obtain ⟨l, r, x, f⟩ := exists_logForm h5
  have hl2 := f.l_ge
  have hlw : l < s.cfg.distW.val := f.l_lt hp.le
  have hi := s.cfg.distW.hi
  have e : s.wires.l.toNat = l := by rw [hw.l_eq (by omega), f.msb_eq, toNat_ofNat_of_lt (by omega)]
  rw [e, f.msb_eq]
  omega

theorem WiresAgree.bitlenOut_eq (h2 : 2 ≤ d.toNat) : bitlenOut s = BitVec.ofNat 5 (msb (d.toNat - 1)) := by
  have hm := hw.m_toNat (by omega)
  rw [bitlenOut_of_pos (by omega) (by omega), hm]

theorem WiresAgree.selectorOut_eq (h5 : 5 ≤ d.toNat) :
    selectorOut s = decide (halfSelector (d.toNat - 1) (msb (d.toNat - 1)) = 1) := by
  obtain ⟨hl, hl1, -⟩ := hw.l_toNat hp h5
  rw [selectorOut_log (hw.not_small_of_le h5) hl1, hl, hw.m_toNat (by omega)]

theorem WiresAgree.sliceOut_eq (h5 : 5 ≤ d.toNat) :
    sliceOut s = BitVec.ofNat 30 (extraSlice (d.toNat - 1) (msb (d.toNat - 1))) := by
  obtain ⟨hl, hl1, hlw⟩ := hw.l_toNat hp h5
  rw [sliceOut_log (hw.not_small_of_le h5) hl1 hlw, hl, hw.m_toNat (by omega)]

variable (hd : s.dist = some d) (h1 : 1 ≤ d.toNat)
include hd h1

theorem WiresAgree.symmapOut_eq : symmapOut s = BitVec.ofNat 6 (distanceSymbol d.toNat) := by
  by_cases h5 : d.toNat < 5
  · rw [symmapOut_small (hw.small_of_lt h5) hd h1 h5, (small_functions h5).1]
  · obtain ⟨hl, hl1, hlw⟩ := hw.l_toNat hp (by omega)
    rw [symmapOut_log (hw.not_small_of_le (by omega)) hl1 hlw, hl, hw.m_toNat h1, distanceSymbol, if_neg h5]

theorem WiresAgree.countOut_eq : countOut s = BitVec.ofNat 5 (extraBitCount d.toNat) := by
  by_cases h5 : d.toNat < 5
  · rw [(extract_small (hw.small_of_lt h5) hd h1).1, (small_functions h5).2.1]; rfl
  · obtain ⟨hl, hl1, hlw⟩ := hw.l_toNat hp (by omega)
    rw [countOut_log (hw.not_small_of_le (by omega)) hl1 hlw, hl, extraBitCount, if_neg h5, logCount]

theorem WiresAgree.valueOut_eq : valueOut s = BitVec.ofNat 30 (extraBitValue d.toNat) := by
  by_cases h5 : d.toNat < 5
  · rw [(extract_small (hw.small_of_lt h5) hd h1).2, (small_functions h5).2.2]; rfl
  · obtain ⟨hl, hl1, hlw⟩ := hw.l_toNat hp (by omega)
    have hle : 1 + 2 ^ s.wires.l.toNat ≤ d.toNat := by
      have := msb_lower (x := d.toNat - 1) (by omega)
      rw [hl]; omega
    rw [valueOut_log (hw.not_small_of_le (by omega)) hd hl1 hlw hle, hl, extraBitValue, if_neg h5]

end SettledSignals

/-! ### A sub-unit keeps the invariant: it drives the outputs of a settled evaluation again -/

theorem bitlen_keeps_inv {s : State} (hi : s.Inv) : (advanceDraws (bitlenUnit s)).Inv where
  __ := hi
  l_fits := bitlenOut_fits s
  agrees hs d hd :=
    (hi.agrees hs d hd).of_flags_eq rfl rfl fun _ ho hw =>
      ⟨ho, { hw with l_eq := hw.bitlenOut_eq (hi.dist_fits d hd) }⟩

theorem symmap_keeps_inv {s : State} (hi : s.Inv) : (advanceDraws (symmapUnit s)).Inv where
  __ := hi
  sym_fits := symmapOut_fits s
  agrees hs d hd := by
    have hp := hi.dist_fits d hd
    refine (hi.agrees hs d hd).of_flags_eq rfl rfl fun h1 ho hw =>
      ⟨?_, { hw with r_eq := hw.selectorOut_eq hp }⟩
    rw [advanceDraws_out, symmapUnit_out, hw.symmapOut_eq hp hd h1, ho]
    rfl

theorem extract_keeps_inv {s : State} (hi : s.Inv) : (advanceDraws (extractUnit s)).Inv where
  __ := hi
  ebits_fits := countOut_fits s
  evalue_fits := valueOut_fits s
  x_fits := sliceOut_fits s
  agrees hs d hd := by
    have hp := hi.dist_fits d hd
    refine (hi.agrees hs d hd).of_flags_eq rfl rfl fun h1 ho hw =>
      ⟨?_, { hw with x_eq := hw.sliceOut_eq hp }⟩
    rw [advanceDraws_out, extractUnit_out, hw.countOut_eq hp hd h1, hw.valueOut_eq hp hd h1, ho]
    rfl

/-! ### An evaluation establishes the agreement -/

theorem domainError_keeps_inv {s : State} (hi : s.Inv) : (takeDomainError s).Inv where
  dist_fits d hd := by cases hd; exact Nat.two_pow_pos _
  sym_fits := drawSym_fits s
  ebits_fits := drawEbits_fits s
  evalue_fits := drawEvalue_fits s
  m_fits := drawM_fits s
  l_fits := drawL_fits s
  x_fits := drawX_fits s
  held_le := le_rfl
  agrees _ d hd := by cases hd; exact outputsAgree_zero.2 ⟨rfl, rfl⟩
  record := by rw [takeDomainError_faultRecord, takeDomainError_results, faultsFrom_append_fault, hi.record]

theorem toNat_ofNat_fits {n k v : Nat} (h : v < 2 ^ k) : (BitVec.ofNat n v).toNat < 2 ^ k := by
  rw [BitVec.toNat_ofNat]
  exact lt_of_le_of_lt (Nat.mod_le _ _) h

theorem wiresAgree_wiresOf (d : Word) (s : State) : WiresAgree d (wiresOf d s) where
  m_eq := rfl
  small_eq := rfl
  l_eq _ := if_neg (by omega)
  r_eq _ := if_neg (by omega)
  x_eq _ := if_neg (by omega)

section EvaluationOnPort

variable {d : Word} {s : State} (h1 : 1 ≤ d.toNat) (hp : d.toNat < 2 ^ s.cfg.distW.val)
include hp

theorem wiresOf_x_fits : (wiresOf d s).x.toNat < 2 ^ evW s.cfg.distW := by
  by_cases h5 : d.toNat < 5
  · simpa only [wiresOf, h5, if_true] using drawX_fits s
  · obtain ⟨l, r, x, f⟩ := exists_logForm (by omega : 5 ≤ d.toNat)
    have hx : x < 2 ^ evW s.cfg.distW := f.x_lt_evW (f.l_lt hp.le)
    simpa only [wiresOf, h5, if_false, f.msb_eq, f.extraSlice_eq] using toNat_ofNat_fits hx

include h1

theorem wiresOf_l_fits : (wiresOf d s).l.toNat < 2 ^ lW s.cfg.distW := by
  by_cases h : d.toNat = 1
  · simpa only [wiresOf, h, if_true] using drawL_fits s
  · simpa only [wiresOf, h, if_false] using toNat_ofNat_fits (msb_pred_fits (by omega) hp)

theorem evaluation_keeps_inv (hi : s.Inv) : (completeEvaluation d (outputsOf d.toNat) (wiresOf d s) s).Inv where
  dist_fits e he := by cases he; exact hp
  sym_fits := toNat_ofNat_fits (symbol_fits hp)
  ebits_fits := toNat_ofNat_fits (count_fits hp)
  evalue_fits := toNat_ofNat_fits (value_fits hp)
  m_fits := by
    have : (d - 1).toNat < 2 ^ s.cfg.distW.val := by rw [pred_toNat h1]; omega
    exact this
  l_fits := wiresOf_l_fits h1 hp
  x_fits := wiresOf_x_fits hp
  held_le := le_rfl
  agrees _ e he := by cases he; exact (outputsAgree_pos h1).2 ⟨rfl, wiresAgree_wiresOf d s⟩
  record := by
    rw [completeEvaluation_faultRecord, completeEvaluation_results, faultsFrom_append_ok, hi.record]

end EvaluationOnPort

/-! ### What the host does besides an evaluation -/

theorem settled_of_undriven {s : State} (h : s.dist = none) : s.settled = false := by
  rw [State.settled, h]; rfl

theorem settled_of_held_lt {s : State} (h : s.held < s.cfg.tPd) : s.settled = false := by
  rw [State.settled, decide_eq_false (by omega), Bool.and_false]

theorem unsettled_keeps_inv {s : State} {dist : Option Word} {held : Nat} (hi : s.Inv)
    (hdist : ∀ d, dist = some d → d.toNat < 2 ^ s.cfg.distW.val) (hheld : held ≤ s.cfg.tPd)
    (hs : (leaveUnsettled dist held s).settled = false) : (leaveUnsettled dist held s).Inv where
  dist_fits := hdist
  sym_fits := drawSym_fits s
  ebits_fits := drawEbits_fits s
  evalue_fits := drawEvalue_fits s
  m_fits := drawM_fits s
  l_fits := drawL_fits s
  x_fits := drawX_fits s
  held_le := hheld
  agrees hset := by rw [hs] at hset; cases hset
  record := by
    rw [leaveUnsettled_faultRecord, leaveUnsettled_results, faultsFrom_append_unspecified, hi.record]

/-- The invariant says nothing of the host's operations still to come. -/
theorem program_keeps_inv {s : State} (rest : List HostAction) (hi : s.Inv) : ({ s with program := rest } : State).Inv :=
  { hi with }

/-! ### The two obligations -/

/-- Settles O35, by the cases of what an instruction can do. -/
theorem everyInstructionKeepsTheInvariant : Obligations.EveryInstructionKeepsTheInvariant := by
  intro i s t hi h
  obtain ⟨-, rfl⟩ | ⟨-, rfl⟩ | ⟨-, rfl⟩ | ⟨-, rfl⟩ | ⟨d, -, h1, hp, rfl⟩ := exec_cases h
  · exact bitlen_keeps_inv hi
  · exact symmap_keeps_inv hi
  · exact extract_keeps_inv hi
  · exact domainError_keeps_inv hi
  · exact evaluation_keeps_inv h1 hp hi

/-- Settles O34, by the cases of what a step can do; an evaluated word is one instruction. -/
theorem everyStepKeepsTheInvariant : Obligations.EveryStepKeepsTheInvariant := by
  intro s t hi h
  obtain ⟨-, rfl⟩ | ⟨rest, -, rfl⟩ | ⟨hold, rest, -, rfl⟩ | ⟨d, hold, rest, -, hlt, hp, rfl⟩ |
    ⟨d, hold, rest, i, -, -, -, hexec⟩ := step_cases h
  · exact hi
  · exact program_keeps_inv rest hi
  · exact unsettled_keeps_inv (program_keeps_inv rest hi) (by simp) (Nat.zero_le _) (settled_of_undriven rfl)
  · refine unsettled_keeps_inv (program_keeps_inv rest hi) ?_ hlt.le (settled_of_held_lt hlt)
    rintro e ⟨⟩
    exact hp
  · exact everyInstructionKeepsTheInvariant i _ t (program_keeps_inv rest hi) hexec

end Sys2Proof.Machine
end

section
/-! PROOFS of the state family: the flags, the words off the port, the parameters, and the output ranges on either side of
32768. -/

namespace Sys2Proof.Machine

/-! ### The flags (R33, R34, R118) -/

@[simp] theorem extOf_eq_true_iff {d : Nat} : extOf d = true ↔ 32768 < d := decide_eq_true_iff

theorem exec_encode (d : Word) (s : State) : exec (.encode d) s = execEncode d s := rfl

/-- Settles O7: a fault drives the flags of `dist = 0`, and any other word of the port those of the three functions. -/
theorem flagsFollowThePresentInput : Obligations.FlagsFollowThePresentInput := by
  intro d s hp
  rw [exec_encode]
  by_cases h0 : d = 0
  · subst h0
    exact ⟨_, execEncode_zero s, by simp, by simp, rfl⟩
  · have hd : d.toNat ≠ 0 := fun e => h0 (BitVec.eq_of_toNat_eq e)
    refine ⟨_, execEncode_pos hp (Nat.one_le_iff_ne_zero.2 hd), ?_, extOf_eq_true_iff, ?_⟩
    · exact iff_of_false Bool.false_ne_true hd
    · rw [if_neg hd]; rfl

/-! ### Words off the port (R67) -/

/-- Every instruction has the bound of the family PayloadBound. -/
theorem payloadBound (i : Instr) : Laws.PayloadBound.Statement i := by
  cases i
  case encode | bitlen | symmap | extract | domerr => exact Laws.PayloadBound.of_none rfl
  case dsym0 | dsym1 | dsym2 | dsym3 =>
    exact Laws.PayloadBound.of_class (0 : BitVec 0) rfl (by decide) (by decide)
  all_goals exact Laws.PayloadBound.of_class _ rfl (by decide) (by decide)

theorem wf_of_classOf {i : Instr} {n x : Nat} (W : DistW) (h : i.classOf = some (n, x)) :
    i.wf W = classOnPort W n x := by
  cases i <;> cases h <;> rfl

/-- The distance of slice `x` of a log class, in the normal form (R66). -/
theorem base_add_logForm {n x : Nat} (h4 : 4 ≤ n) (hx : x < 2 ^ countOfSymbol n) :
    LogForm (base n + x) (n / 2) (n % 2) x := by
  obtain ⟨l, r, hr, rfl⟩ : ∃ l r, r ≤ 1 ∧ n = 2 * l + r := ⟨n / 2, n % 2, by omega, by omega⟩
  have hl : 2 ≤ l := by omega
  have e1 : (2 * l + r) / 2 = l := by omega
  have e2 : (2 * l + r) % 2 = r := by omega
  rw [countOfSymbol_of_log hl hr] at hx
  rw [e1, e2, base_of_log hl hr]
  exact ⟨hl, hr, hx, rfl⟩

theorem classOnPort_iff {W : DistW} {n x : Nat} :
    classOnPort W n x = true ↔ n < 2 * W.val ∧ (n = 2 * W.val - 1 → x ≠ 2 ^ (W.val - 2) - 1) := by
  simp [classOnPort, imp_iff_not_or]

/-- R67's condition on the class and the slice says that the port carries the distance. The last class a build can reach,
`l = DIST_W - 1` with `r = 1`, is the one whose last distance is `2^DIST_W`. -/
theorem classOnPort_iff_base_add_lt {W : DistW} {n x : Nat} (hx : x < 2 ^ countOfSymbol n) :
    classOnPort W n x = true ↔ base n + x < 2 ^ W.val := by
  have lo := W.lo
  have hW : 2 ^ W.val = 2 * 2 ^ (W.val - 1) := two_pow_pred (by omega)
  have hW' : 2 ^ (W.val - 1) = 2 * 2 ^ (W.val - 2) := two_pow_pred (l := W.val - 1) (by omega)
  have hpos : 4 ≤ 2 ^ (W.val - 2) := four_le_two_pow (by omega)
  rw [classOnPort_iff]
  by_cases h4 : n < 4
  · have e : base n = n + 1 := if_pos h4
    have ec : countOfSymbol n = 0 := if_pos h4
    rw [ec] at hx
    omega
  · have f := base_add_logForm (by omega) hx
    obtain ⟨hlow, hupp, -⟩ := f.bounds
    rcases Nat.lt_trichotomy (n / 2) (W.val - 1) with hl | hl | hl
    · have : 2 ^ (n / 2 + 1) ≤ 2 ^ (W.val - 1) := Nat.pow_le_pow_right (by decide) hl
      omega
    · have hx' := f.x_lt
      have hd := f.eq
      have e : W.val - 1 - 1 = W.val - 2 := by omega
      rw [hl, e] at hx' hd
      rcases Nat.mod_two_eq_zero_or_one n with hr | hr <;> rw [hr] at hd <;> omega
    · have : 2 ^ W.val ≤ 2 ^ (n / 2) := Nat.pow_le_pow_right (by decide) (by omega)
      omega

/-- Settles O11: an ill-formed ENCODE or class instruction is one whose distance the port cannot carry. -/
theorem wordsOffThePortAreRefused : Obligations.WordsOffThePortAreRefused := by
  intro i s hwf
  cases hc : i.classOf with
  | some p =>
    obtain ⟨n, x⟩ := p
    have hx := (payloadBound i n x hc).2
    rw [wf_of_classOf _ hc, ← Bool.not_eq_true, classOnPort_iff_base_add_lt hx] at hwf
    exact exec_class_off hc (decide_eq_false hwf)
  | none =>
    cases i with
    | encode d => exact execEncode_off hwf
    | bitlen | symmap | extract | domerr => cases hwf
    | _ => cases hc

/-! ### The parameters (R25, R139) -/

theorem exec_keeps_cfg {i : Instr} {s t : State} (h : exec i s = .next t) : t.cfg = s.cfg := by
  obtain ⟨-, rfl⟩ | ⟨-, rfl⟩ | ⟨-, rfl⟩ | ⟨-, rfl⟩ | ⟨d, -, -, -, rfl⟩ := exec_cases h <;> rfl

/-- Settles O22, by the cases of what a step can do. -/
theorem noStepChangesTheParameters : Obligations.NoStepChangesTheParameters := by
  intro s t h
  obtain ⟨-, rfl⟩ | ⟨rest, -, rfl⟩ | ⟨hold, rest, -, rfl⟩ | ⟨d, hold, rest, -, -, -, rfl⟩ |
    ⟨d, hold, rest, i, -, -, -, hexec⟩ := step_cases h
  · rfl
  · rfl
  · rfl
  · rfl
  · have hcfg := exec_keeps_cfg hexec
    exact hcfg

/-! ### The classic domain and beyond it (R36, R37) -/

/-- The classic domain ends with the last distance of `l = 14`. -/
theorem LogForm.classic_lt_iff {d l r x : Nat} (f : LogForm d l r x) : 32768 < d ↔ 15 ≤ l := by
  rw [← extOf_eq_true_iff, f.extOf_eq, decide_eq_true_iff]

theorem logForm_32768 : LogForm 32768 14 1 8191 := by
  constructor <;> decide

/-- Settles O43: `l <= 14` on the classic domain, and `15 <= l < DIST_W` beyond it. -/
theorem classicAndExtendedRanges : Obligations.ClassicAndExtendedRanges := by
  refine ⟨fun d _ hd => ?_, logForm_32768.functions, fun W d hd hmax => ?_⟩
  · by_cases h5 : d < 5
    · obtain ⟨hsym, hcount, hvalue⟩ := small_functions h5
      rw [hsym, hcount, hvalue]
      omega
    · obtain ⟨l, r, x, f⟩ := exists_logForm (by omega : 5 ≤ d)
      have hl : l ≤ 14 := by have := f.classic_lt_iff; omega
      have hr := f.r_le
      obtain ⟨hsym, hcount, hvalue⟩ := f.functions
      rw [hsym, hcount, hvalue]
      have hx : x < 2 ^ 13 := lt_of_lt_of_le f.x_lt (Nat.pow_le_pow_right (by decide) (by omega))
      exact ⟨by omega, by omega, hx⟩
  · obtain ⟨l, r, x, f⟩ := exists_logForm (by omega : 5 ≤ d)
    have hl : 15 ≤ l := f.classic_lt_iff.1 hd
    have hlW : l < W.val := f.l_lt (le_trans hmax (Nat.sub_le _ _))
    have hr := f.r_le
    obtain ⟨hsym, hcount, -⟩ := f.functions
    rw [hsym, hcount]
    omega

end Sys2Proof.Machine
end

section
/-! PROOFS of the memory family: a result depends on its own word alone. -/

namespace Sys2Proof.Machine

/-! ### What ENCODE leaves of the state before it (R45, R47, R103, R144) -/

/-- ENCODE of a word of the port samples the result of that word, and drives the flags and, for `d >= 1`, every output by
functions of it: the state before supplies only the earlier results. -/
theorem exec_encode_onPort {d : Word} {s : State} (hp : onPort s.cfg.distW d.toNat = true) :
    ∃ t, exec (.encode d) s = .next t ∧ t.results = s.results ++ [sampleOfWord d] ∧
      t.out.domErr = domErrOf d.toNat ∧ t.out.ext = extOf d.toNat ∧ (1 ≤ d.toNat → t.out = outputsOf d.toNat) := by
  rw [exec_encode]
  by_cases h0 : d = 0
  · subst h0
    exact ⟨_, execEncode_zero s, rfl, rfl, rfl, fun h => absurd h (by decide)⟩
  · have h1 : 1 ≤ d.toNat := Nat.one_le_iff_ne_zero.2 fun e => h0 (BitVec.eq_of_toNat_eq e)
    have hdom : domErrOf d.toNat = false := decide_eq_false (Nat.one_le_iff_ne_zero.1 h1)
    have hsample : sampleOfWord d = sampleOf (outputsOf d.toNat) := if_neg h0
    exact ⟨_, execEncode_pos hp h1, by rw [hsample]; rfl, hdom.symm, rfl, fun _ => rfl⟩

/-- Settles O36: both evaluations leave the same functions of the word. -/
theorem resultsDependOnlyOnTheirOwnInput : Obligations.ResultsDependOnlyOnTheirOwnInput := by
  intro d s s' hp hp'
  obtain ⟨t, ht, hres, hdom, hext, hout⟩ := exec_encode_onPort hp
  obtain ⟨t', ht', hres', hdom', hext', hout'⟩ := exec_encode_onPort hp'
  exact ⟨t, t', sampleOfWord d, ht, ht', hres, hres', hdom.trans hdom'.symm, hext.trans hext'.symm,
    fun h1 => (hout h1).trans (hout' h1).symm⟩

end Sys2Proof.Machine
end

section
/-! PROOFS of the encoding family, first part: the class table and the decoder. A class and a slice are one distance,
`base n + x`, and the decoder finds the row of a distance by its symbol. -/

namespace Sys2Proof.Machine

/-! ### A class and a slice are one distance (R64, R66) -/

/-- The functions give back the class and the slice of `base n + x`. -/
theorem functions_base_add {n x : Nat} (hx : x < 2 ^ countOfSymbol n) :
    distanceSymbol (base n + x) = n ∧ extraBitValue (base n + x) = x := by
  by_cases h4 : n < 4
  · have hb : base n = n + 1 := if_pos h4
    have hc : countOfSymbol n = 0 := if_pos h4
    rw [hc] at hx
    obtain ⟨hsym, -, hvalue⟩ := small_functions (d := base n + x) (by omega)
    omega
  · obtain ⟨hsym, -, hvalue⟩ := (base_add_logForm (by omega) hx).functions
    exact ⟨by omega, hvalue⟩

/-- A distance is the first of its class plus its extra-bit value. -/
theorem base_symbol_add_value {d : Nat} (h1 : 1 ≤ d) : base (distanceSymbol d) + extraBitValue d = d := by
  by_cases h5 : d < 5
  · obtain ⟨hsym, -, hvalue⟩ := small_functions h5
    have hb : base (d - 1) = d - 1 + 1 := if_pos (by omega)
    rw [hsym, hvalue, hb]
    omega
  · obtain ⟨l, r, x, f⟩ := exists_logForm (by omega : 5 ≤ d)
    obtain ⟨hsym, -, hvalue⟩ := f.functions
    rw [hsym, hvalue, base_of_log f.l_ge f.r_le, ← f.eq]

/-- The first distance of a log class, from its row's pattern (R66). -/
theorem base_eq_row_pattern {n : Nat} (h4 : 4 ≤ n) : base n = (2 + n % 2) * 2 ^ (n / 2 - 1) + 1 := by
  have e : n = 2 * (n / 2) + n % 2 := by omega
  conv_lhs => rw [e]
  rw [base_of_log (by omega) (by omega), two_pow_pred (l := n / 2) (by omega)]
  ring

/-! ### The rows of the table (R65, R66) -/

/-- A log row matches the words `m` whose distance `m + 1` lies in the class. -/
theorem row_matches_iff_distance {n : Nat} (h : n < classRows.length) (h4 : 4 ≤ n) (m : Word) :
    m &&& classRows[n].mask = classRows[n].pattern ↔
      base n ≤ m.toNat + 1 ∧ m.toNat + 1 ≤ base n + 2 ^ (n / 2 - 1) - 1 := by
  have hpos := Nat.two_pow_pos (n / 2 - 1)
  rw [row_matches_iff h, if_neg (by omega), Nat.div_eq_iff hpos, base_eq_row_pattern h4]
  omega

/-- Settles O30: the mask and the pattern by the formula of the row, the match by its quotient. -/
theorem classRowsMatchExactlyTheirDistances : Obligations.ClassRowsMatchExactlyTheirDistances := by
  intro n row m hrow
  obtain ⟨h, rfl⟩ := List.getElem?_eq_some_iff.1 hrow
  refine ⟨fun h4 => by rw [row_matches_iff h, if_pos h4], fun h4 => ?_⟩
  have form := classRows_getElem_form h
  rw [rowForm, if_neg (by omega), Prod.mk.injEq] at form
  obtain ⟨hmask, hpattern⟩ := form
  refine ⟨hmask, ?_, row_matches_iff_distance h h4 m⟩
  rw [hpattern, two_pow_pred (l := n / 2) (by omega)]
  ring

/-! ### The decoder on a word of the port (R64) -/

theorem one_le_toNat {d : Word} (h : d ≠ 0) : 1 ≤ d.toNat :=
  Nat.one_le_iff_ne_zero.2 fun e => h (BitVec.eq_of_toNat_eq e)

theorem decode_zero (W : DistW) : decode W 0 = .instr .domerr := by
  have hp : onPort W (0 : Word).toNat = true := decide_eq_true (Nat.two_pow_pos _)
  rw [decode, hp]
  rfl

/-- The decoder reads a nonzero word by the row of its symbol. -/
theorem decode_pos {W : DistW} {d : Word} (hp : onPort W d.toNat = true) (h1 : 1 ≤ d.toNat) :
    ∃ h : distanceSymbol d.toNat < classRows.length,
      decode W d = .instr ((classRows[distanceSymbol d.toNat]'h).instr (d - 1)) := by
  have h0 : ¬ d = 0 := by rintro rfl; exact absurd h1 (by decide)
  have hm : (d - 1).toNat + 1 = d.toNat := by rw [pred_toNat h1]; omega
  have hclass := decodeClass_eq (d - 1) (by rw [hm]; exact d.isLt)
  have hlen := symbol_lt_rows (d - 1) (by rw [hm]; exact d.isLt)
  simp only [hm] at hclass hlen
  refine ⟨hlen, ?_⟩
  rw [decode, hp, if_neg (by decide : ¬ true = false), if_neg h0, hclass]

/-- The distance of a class that the port carries is a 32-bit word. -/
theorem toNat_ofNat_onPort {W : DistW} {d : Nat} (hp : d < 2 ^ W.val) : (BitVec.ofNat 32 d).toNat = d :=
  toNat_ofNat_of_lt (lt_of_lt_of_le hp (Nat.pow_le_pow_right (by decide) W.hi))

/-- The decoder gives a class back from the word of its distance, operand and all. -/
theorem decode_class {W : DistW} {i : Instr} {n x : Nat} (hc : i.classOf = some (n, x))
    (hp : base n + x < 2 ^ W.val) : decode W (BitVec.ofNat 32 (base n + x)) = .instr i := by
  have hd := toNat_ofNat_onPort hp
  have h1 := one_le_base n
  obtain ⟨hsym, -⟩ := functions_base_add (payloadBound i n x hc).2
  obtain ⟨hlen, hdec⟩ := decode_pos (W := W) (d := BitVec.ofNat 32 (base n + x))
    (by rw [hd]; exact decide_eq_true hp) (by omega)
  simp only [hd, hsym] at hdec hlen
  rw [hdec, row_instr hc hlen]
  apply BitVec.eq_of_toNat_eq
  rw [pred_toNat (by omega), hd, toNat_ofNat_onPort (W := W) (by omega)]

/-- A nonzero word of the port decodes to the class of its symbol, with its extra-bit value as the slice. -/
theorem decode_pos_classOf {W : DistW} {d : Word} (hp : onPort W d.toNat = true) (h1 : 1 ≤ d.toNat) :
    ∃ i, decode W d = .instr i ∧ i.classOf = some (distanceSymbol d.toNat, extraBitValue d.toNat) := by
  obtain ⟨hlen, hdec⟩ := decode_pos hp h1
  refine ⟨_, hdec, ?_⟩
  rw [row_classOf (d - 1) _ hlen, pred_toNat h1]
  by_cases h5 : d.toNat < 5
  · obtain ⟨hsym, -, hvalue⟩ := small_functions h5
    rw [if_pos (by omega), hvalue]
  · obtain ⟨l, r, x, f⟩ := exists_logForm (by omega : 5 ≤ d.toNat)
    obtain ⟨hsym, -, hvalue⟩ := f.functions
    have hl := f.l_ge
    have hr := f.r_le
    have e : (2 * l + r) / 2 = l := by omega
    rw [hsym, hvalue, if_neg (by omega), e]
    exact congrArg (fun x => some (2 * l + r, x)) f.extraSlice_eq

/-! ### The obligations on the decoder -/

/-- Settles O28: a well-formed class has a distance of the port, whose row is the class's own. -/
theorem decodeOfEncodeGivesTheClassBack : Obligations.DecodeOfEncodeGivesTheClassBack := by
  intro W i hi hwf
  cases hc : i.classOf with
  | none =>
    obtain rfl : i = .domerr := hi.resolve_right fun hne => hne hc
    exact ⟨0, rfl, decode_zero W⟩
  | some p =>
    obtain ⟨n, x⟩ := p
    rw [wf_of_classOf W hc, classOnPort_iff_base_add_lt (payloadBound i n x hc).2] at hwf
    exact ⟨_, encode_class hc, decode_class hc hwf⟩

/-- Settles O29: 0 is DOMERR, and the class of any other word has that word as its distance. -/
theorem everyWordDecodesToTheClassOfItsSymbol : Obligations.EveryWordDecodesToTheClassOfItsSymbol := by
  intro W d hp
  by_cases h0 : d = 0
  · subst h0
    exact ⟨.domerr, decode_zero W, rfl, rfl, fun _ => rfl, fun h1 => absurd h1 (by decide)⟩
  · have h1 := one_le_toNat h0
    obtain ⟨i, hdec, hc⟩ := decode_pos_classOf hp h1
    have hd := base_symbol_add_value h1
    refine ⟨i, hdec, ?_, ?_, fun h => by omega, fun _ => hc⟩
    · rw [encode_class hc, hd, BitVec.ofNat_toNat, BitVec.setWidth_eq]
    · rw [wf_of_classOf W hc, classOnPort_iff_base_add_lt (payloadBound i _ _ hc).2, hd]
      exact of_decide_eq_true hp

/-- Settles O31: `MAX_DIST` is the last word of the port. -/
theorem reachedClassesAreThoseOfThePort : Obligations.ReachedClassesAreThoseOfThePort := by
  intro W n x hx
  have hpos := Nat.two_pow_pos W.val
  rw [classOnPort_iff_base_add_lt hx, maxDist]
  omega

/-- Settles O3, by running the decoder on the five words. -/
theorem writtenOutWordsDecodeToTheirClasses : Obligations.WrittenOutWordsDecodeToTheirClasses := by
  unfold Obligations.WrittenOutWordsDecodeToTheirClasses
  decide

end Sys2Proof.Machine
end

section
/-! PROOFS of the encoding family, second part: the fields that ENCODE drives, the outputs of the log classes, and the
run of a program of evaluations. -/

namespace Sys2Proof.Machine

/-! ### ENCODE and the classes -/

/-- On the log path the signals of an evaluation hold the fields of the distance's normal form (R60 to R62). -/
theorem wiresOf_logForm {d : Word} {l r x : Nat} (f : LogForm d.toNat l r x) (s : State) :
    (wiresOf d s).l.toNat = l ∧ (wiresOf d s).r.toNat = r ∧ (wiresOf d s).x.toNat = x := by
  have hw := wiresAgree_wiresOf d s
  have h5 := f.bounds.2.2
  have hl : l < 32 := f.l_lt (W := .extended) d.isLt.le
  have hx : x < 2 ^ 30 := f.x_lt_evW (W := .extended) hl
  have hr := f.r_le
  refine ⟨?_, ?_, ?_⟩
  · rw [hw.l_eq (by omega), f.msb_eq, toNat_ofNat_of_lt hl]
  · rw [hw.r_eq h5, f.msb_eq, f.halfSelector_eq]
    interval_cases r <;> rfl
  · rw [hw.x_eq h5, f.msb_eq, f.extraSlice_eq, toNat_ofNat_of_lt hx]

/-- Settles O6: on the log path the equation of the fields is the distance's normal form. -/
theorem encodeSplitsTheWordIntoItsFields : Obligations.EncodeSplitsTheWordIntoItsFields := by
  intro d s hp h1
  have hm : (wiresOf d s).m.toNat = d.toNat - 1 := pred_toNat h1
  refine ⟨_, execEncode_pos hp h1, hm, decide_eq_true_iff, fun hs => ?_⟩
  obtain ⟨l, r, x, f⟩ := exists_logForm (Nat.le_of_not_lt (of_decide_eq_false hs))
  obtain ⟨hl, hr, hx⟩ := wiresOf_logForm f s
  have hd := f.eq
  rw [completeEvaluation_wires, hl, hr, hx, hm]
  exact ⟨f.l_ge, f.x_lt, by omega⟩

/-- Settles O10: the class is the evaluation of its distance, whose three functions the normal form gives. -/
theorem logClassesGiveTheirRow : Obligations.LogClassesGiveTheirRow := by
  intro i n x s hc h4 hwf
  have hx := (payloadBound i n x hc).2
  rw [wf_of_classOf _ hc, classOnPort_iff_base_add_lt hx] at hwf
  have f := base_add_logForm h4 hx
  obtain ⟨hsym, hcount, hvalue⟩ := f.functions
  have hn : 2 * (n / 2) + n % 2 = n := by omega
  have hout : outputsOf (base n + x) =
      { sym := BitVec.ofNat 6 n, ebits := BitVec.ofNat 5 (n / 2 - 1), evalue := BitVec.ofNat 30 x, domErr := false,
        ext := decide (32768 < base n + x) } := by
    rw [outputsOf, hsym, hcount, hvalue, hn]
    rfl
  refine ⟨wiresOf (BitVec.ofNat 32 (base n + x)) s, ?_⟩
  rw [← f.eq, exec_class hc (decide_eq_true hwf), hout]
  rfl

/-- Settles O32: both are DomainError for 0, and the evaluation of the word otherwise. -/
theorem classDecodeAgreesWithEncode : Obligations.ClassDecodeAgreesWithEncode := by
  intro s d hp
  by_cases h0 : d = 0
  · subst h0
    exact ⟨.domerr, decode_zero _, (execEncode_zero s).symm⟩
  · have h1 := one_le_toNat h0
    obtain ⟨i, hdec, hc⟩ := decode_pos_classOf hp h1
    have hd := base_symbol_add_value h1
    refine ⟨i, hdec, ?_⟩
    rw [exec_class hc (by rwa [hd]), hd, BitVec.ofNat_toNat, BitVec.setWidth_eq, exec_encode, execEncode_pos hp h1]

/-! ### The run of a program (R73) -/

/-- A word driven for `T_PD` has been held for `T_PD`, whatever the port carried before. -/
theorem tPd_le_heldAfter {s : State} {d : Word} {hold : Nat} (h : s.cfg.tPd ≤ hold) :
    s.cfg.tPd ≤ heldAfter d hold s := by
  unfold heldAfter
  split <;> omega

/-- The step that evaluates a word of the port is ENCODE of that word. -/
theorem step_settled_word {s : State} {d : Word} {hold : Nat} {rest : List HostAction}
    (hprog : s.program = .drive (some d) hold :: rest) (hheld : s.cfg.tPd ≤ heldAfter d hold s)
    (hp : onPort s.cfg.distW d.toNat = true) : step s = exec (.encode d) { s with program := rest } := by
  obtain ⟨i, hdec, hexec⟩ := classDecodeAgreesWithEncode { s with program := rest } d hp
  calc step s
      = present (.drive (some d) hold) { s with program := rest } := by rw [step, stepProgram, hprog]
    _ = runWord d { s with program := rest } := if_pos hheld
    _ = exec i { s with program := rest } := by rw [runWord, hdec]
    _ = exec (.encode d) { s with program := rest } := hexec

theorem exec_keeps_program {i : Instr} {s t : State} (h : exec i s = .next t) : t.program = s.program := by
  obtain ⟨-, rfl⟩ | ⟨-, rfl⟩ | ⟨-, rfl⟩ | ⟨-, rfl⟩ | ⟨d, -, -, -, rfl⟩ := exec_cases h <;> rfl

/-- A step that drives a word of the port for `T_PD` takes the operation off the program and samples the result of the
word. -/
theorem step_samples_word {s : State} {d : Word} {hold : Nat} {rest : List HostAction}
    (hprog : s.program = .drive (some d) hold :: rest) (hhold : s.cfg.tPd ≤ hold)
    (hp : onPort s.cfg.distW d.toNat = true) :
    ∃ t, step s = .next t ∧ t.cfg = s.cfg ∧ t.program = rest ∧ t.results = s.results ++ [sampleOfWord d] := by
  obtain ⟨t, ht, hres, -⟩ := exec_encode_onPort (s := { s with program := rest }) hp
  have hcfg := exec_keeps_cfg ht
  have hprogram := exec_keeps_program ht
  exact ⟨t, (step_settled_word hprog (tPd_le_heldAfter hhold) hp).trans ht, hcfg, hprogram, hres⟩

theorem run_succ_of_step {M : Host.Core} {k : Nat} {s t : M.State} (h : M.step s = .next t) :
    M.run (k + 1) s = M.run k t := by
  rw [Host.Core.run, h]

/-- Settles O37, by induction on the program's words. -/
theorem programSamplesEachWordInOrder : Obligations.ProgramSamplesEachWordInOrder := by
  intro ps
  induction ps with
  | nil => intro s _ hprog; exact ⟨s, rfl, hprog, (List.append_nil _).symm⟩
  | cons p ps ih =>
    intro s hps hprog
    obtain ⟨⟨hp, hhold⟩, hrest⟩ := List.forall_mem_cons.1 hps
    obtain ⟨t, hstep, hcfg, htprog, htres⟩ := step_samples_word hprog hhold hp
    obtain ⟨u, hrun, huprog, hures⟩ := ih t (by rwa [hcfg]) htprog
    refine ⟨u, (run_succ_of_step (M := core) hstep).trans hrun, huprog, ?_⟩
    rw [hures, htres, List.append_assoc]
    rfl

end Sys2Proof.Machine
end

section
/-! PROOFS of the bit-length family: what the sub-units drive, and the ranges of `l` (R75 to R80). -/

namespace Sys2Proof.Machine

/-! ### A sub-unit run on its own: the next state, by what it drives (R75, R83, R91) -/

theorem exec_bitlen (s : State) :
    exec .bitlen s = .next { s with wires := { s.wires with l := bitlenOut s }, draws := s.draws + 1 } := rfl

theorem exec_symmap (s : State) :
    exec .symmap s =
      .next { s with
        wires := { s.wires with r := selectorOut s }
        out := { s.out with sym := symmapOut s }
        draws := s.draws + 1 } := rfl

theorem exec_extract (s : State) :
    exec .extract s =
      .next { s with
        wires := { s.wires with x := sliceOut s }
        out := { s.out with ebits := countOut s, evalue := valueOut s }
        draws := s.draws + 1 } := rfl

/-- Settles O17, by the next state of each sub-unit. -/
theorem subUnitsChangeOnlyWhatTheyDrive : Obligations.SubUnitsChangeOnlyWhatTheyDrive := fun s =>
  ⟨⟨_, exec_bitlen s⟩, ⟨_, _, exec_symmap s⟩, ⟨_, _, _, exec_extract s⟩⟩

/-! ### What BITLEN drives (R76, R78) -/

/-- On an `m` of the build from 1 up, BITLEN drives the `l` that R14 picks. -/
theorem bitlenOut_of_range {s : State} {l : Nat} (hfit : s.wires.m.toNat < 2 ^ s.cfg.distW.val)
    (lo : 2 ^ l ≤ s.wires.m.toNat) (hi : s.wires.m.toNat < 2 ^ (l + 1)) : bitlenOut s = BitVec.ofNat 5 l := by
  have h1 : 1 ≤ s.wires.m.toNat := le_trans Nat.one_le_two_pow lo
  rw [bitlenOut_of_pos h1 hfit, msb_unique lo hi]

/-- Settles O12: the next state of BITLEN, with R14's `l` where `m` is not 0 and its free value otherwise. -/
theorem bitlenDrivesTheHighestSetBit : Obligations.BitlenDrivesTheHighestSetBit := by
  intro s
  refine ⟨fun l hfit lo hi => ?_, fun _ => ⟨_, exec_bitlen s⟩⟩
  rw [exec_bitlen, bitlenOut_of_range hfit lo hi]

/-! ### The ranges of l (R79, R80, R82) -/

theorem le_msb_iff {x k : Nat} (h : 1 ≤ x) : k ≤ msb x ↔ 2 ^ k ≤ x :=
  Nat.le_log2 (by omega)

/-- Settles O42: `k <= l` says `2^k <= m`, at `k = 2`, 14 and 15, and `MAX_DIST` has the normal form with
`l = DIST_W - 1`. -/
theorem bitPositionRanges : Obligations.BitPositionRanges := by
  refine ⟨fun W x h1 hx => ⟨?_, ?_⟩, fun W => (maxDist_logForm W).msb_eq, fun d h5 hd => ?_, fun d hd => ?_,
    fun d h3 => ?_⟩
  · have := msb_lt_of_lt h1 hx
    omega
  · exact (le_msb_iff (k := 2) h1).2
  · have h14 : 14 ≤ msb (d - 1) ↔ 2 ^ 14 ≤ d - 1 := le_msb_iff (by omega)
    have h15 : 15 ≤ msb (d - 1) ↔ 2 ^ 15 ≤ d - 1 := le_msb_iff (by omega)
    omega
  · exact (le_msb_iff (by omega)).2 (by omega)
  · have hlow := msb_lower (x := d - 1) (by omega)
    have hupp := msb_upper (d - 1)
    omega

end Sys2Proof.Machine
end

section
/-! PROOFS of the symbol-map family: what SYMMAP drives, and the laws of the symbol (R83 to R90, R100, R109). The key fact is
that the symbol of a distance is the last class whose first distance does not exceed it. -/

namespace Sys2Proof.Machine

/-! ### What SYMMAP drives, and the small classes (R84, R85) -/

/-- The arithmetic form of R61 is the bit of the word. -/
theorem halfSelector_eq_toNat_getLsbD (m : Word) (l : Nat) :
    halfSelector m.toNat l = (m.getLsbD (l - 1)).toNat := by
  rw [halfSelector, bitAt, ← Nat.toNat_testBit, BitVec.testBit_toNat]

/-- Settles O14: the next state of SYMMAP, whose half-selector is one bit of `m`. -/
theorem symmapLogPathDrivesTwiceLPlusR : Obligations.SymmapLogPathDrivesTwiceLPlusR := by
  intro s hs hl hw
  rw [exec_symmap, selectorOut_log hs (by omega), symmapOut_log hs (by omega) hw, logSymbol,
    halfSelector_eq_toNat_getLsbD]
  simp only [Bool.toNat_eq_one, Bool.decide_eq_true]

/-- Settles O13: the next state of SYMMAP; whatever it drives on `r` is the value asked for. -/
theorem symmapSmallPathDrivesDistMinusOne : Obligations.SymmapSmallPathDrivesDistMinusOne := by
  intro s d hs hd h1 h4
  refine ⟨selectorOut s, ?_⟩
  rw [exec_symmap, symmapOut_small hs hd h1 (by omega)]

theorem outputsOf_small {d : Nat} (h5 : d < 5) :
    outputsOf d = { sym := BitVec.ofNat 6 (d - 1), ebits := 0, evalue := 0, domErr := false, ext := false } := by
  obtain ⟨hsym, hcount, hvalue⟩ := small_functions h5
  have hext : extOf d = false := decide_eq_false (by unfold classicMax; omega)
  rw [outputsOf, hsym, hcount, hvalue, hext]
  rfl

/-- Settles O9: a class below 4 has one distance, `n + 1`, which every port carries. -/
theorem smallClassesMapStraightToTheirSymbol : Obligations.SmallClassesMapStraightToTheirSymbol := by
  intro i n x s hc h4
  have hx := (payloadBound i n x hc).2
  have hcount : countOfSymbol n = 0 := if_pos h4
  have hb : base n = n + 1 := if_pos h4
  obtain rfl : x = 0 := by rw [hcount] at hx; omega
  have hp : n + 1 < 2 ^ s.cfg.distW.val :=
    lt_of_lt_of_le (by omega : n + 1 < 2 ^ 16) (Nat.pow_le_pow_right (by decide) s.cfg.distW.lo)
  refine ⟨wiresOf (BitVec.ofNat 32 (n + 1)) s, ?_⟩
  rw [exec_class hc (decide_eq_true (by rwa [hb])), hb, outputsOf_small (by omega : n + 1 + 0 < 5)]
  rfl

/-! ### The fields of the symbol (R86, R90, R100) -/

/-- Settles O46: from 5 on the block uses the log-path formulas, and 3 and 4 are evaluated. -/
theorem thresholdMayBeThreeFourOrFive : Obligations.ThresholdMayBeThreeFourOrFive := by
  intro d h3
  by_cases h5 : d < 5
  · interval_cases d <;> decide
  · exact ⟨if_neg h5, if_neg h5, if_neg h5, fun h4 => by omega⟩

/-- The symbol holds `l` and `r`, on the log path and below it down to 3 (R86, R90). -/
theorem symbol_fields {d : Nat} (h3 : 3 ≤ d) :
    distanceSymbol d / 2 = msb (d - 1) ∧ distanceSymbol d % 2 = halfSelector (d - 1) (msb (d - 1)) := by
  have hr : halfSelector (d - 1) (msb (d - 1)) < 2 := Nat.mod_lt _ (by decide)
  rw [(thresholdMayBeThreeFourOrFive d h3).1, logSymbol]
  omega

/-- Settles O49: the fields of the symbol, and the normal form of the distance. -/
theorem distanceIsSymbolPlusValue : Obligations.DistanceIsSymbolPlusValue := by
  intro d h5
  obtain ⟨hl, hr⟩ := symbol_fields (d := d) (by omega)
  refine ⟨hl, hr, ?_⟩
  obtain ⟨l, r, x, f⟩ := exists_logForm h5
  rw [hl, hr, f.msb_eq, f.halfSelector_eq, f.functions.2.2]
  exact f.eq

/-! ### The buckets lie one after the other (R88, R109, R110) -/

/-- The count is that of the symbol (R98). -/
theorem extraBitCount_eq_countOfSymbol (d : Nat) : extraBitCount d = countOfSymbol (distanceSymbol d) := by
  by_cases h5 : d < 5
  · obtain ⟨hsym, hcount, -⟩ := small_functions h5
    rw [hsym, hcount]
    exact (if_pos (by omega)).symm
  · obtain ⟨l, r, x, f⟩ := exists_logForm (by omega : 5 ≤ d)
    obtain ⟨hsym, hcount, -⟩ := f.functions
    rw [hsym, hcount, countOfSymbol_of_log f.l_ge f.r_le]

/-- The value has no bit at or above the count (R97). -/
theorem extraBitValue_lt (d : Nat) : extraBitValue d < 2 ^ extraBitCount d := by
  by_cases h5 : d < 5
  · obtain ⟨-, hcount, hvalue⟩ := small_functions h5
    rw [hcount, hvalue]
    decide
  · obtain ⟨l, r, x, f⟩ := exists_logForm (by omega : 5 ≤ d)
    obtain ⟨-, hcount, hvalue⟩ := f.functions
    rw [hcount, hvalue]
    exact f.x_lt

/-- Each bucket begins where the one before it ends. -/
theorem base_succ (n : Nat) : base (n + 1) = base n + 2 ^ countOfSymbol n := by
  by_cases h4 : n < 4
  · interval_cases n <;> rfl
  · obtain ⟨l, r, hr, rfl⟩ : ∃ l r, r ≤ 1 ∧ n = 2 * l + r := ⟨n / 2, n % 2, by omega, by omega⟩
    have hl : 2 ≤ l := by omega
    have h2 : 2 ^ l = 2 * 2 ^ (l - 1) := two_pow_pred (by omega)
    rw [countOfSymbol_of_log hl hr, base_of_log hl hr]
    obtain rfl | rfl : r = 0 ∨ r = 1 := by omega
    · rw [Nat.add_assoc, base_of_log hl (by decide)]
      omega
    · have h3 : 2 ^ (l + 1) = 2 * 2 ^ l := Nat.pow_succ'
      have hnext : base (2 * l + 1 + 1) = 1 + 2 ^ (l + 1) + 0 * 2 ^ (l + 1 - 1) :=
        base_of_log (l := l + 1) (r := 0) (by omega) (by decide)
      rw [hnext]
      omega

theorem base_strictMono : StrictMono base :=
  strictMono_nat_of_lt_succ fun n => by
    rw [base_succ]
    exact Nat.lt_add_of_pos_right (Nat.two_pow_pos _)

/-- The symbol of a distance is the last class whose first distance does not exceed it. -/
theorem le_distanceSymbol_iff {n d : Nat} (h1 : 1 ≤ d) : n ≤ distanceSymbol d ↔ base n ≤ d := by
  have hd := base_symbol_add_value h1
  have hvalue := extraBitValue_lt d
  rw [extraBitCount_eq_countOfSymbol] at hvalue
  have hnext := base_succ (distanceSymbol d)
  constructor
  · intro hn
    have := base_strictMono.monotone hn
    omega
  · intro hn
    exact Nat.lt_succ_iff.1 (base_strictMono.lt_iff_lt.1 (by omega : base n < base (distanceSymbol d + 1)))

theorem distanceSymbol_mono {d e : Nat} (h1 : 1 ≤ d) (hde : d ≤ e) : distanceSymbol d ≤ distanceSymbol e :=
  (le_distanceSymbol_iff (by omega)).2 (le_trans ((le_distanceSymbol_iff h1).1 le_rfl) hde)

theorem countOfSymbol_mono : Monotone countOfSymbol := by
  intro n k hnk
  unfold countOfSymbol
  split <;> split <;> omega

/-- Settles O44: a larger distance reaches every class that a smaller one does, and the count follows the symbol. -/
theorem symbolAndCountAreMonotone : Obligations.SymbolAndCountAreMonotone := by
  intro d1 d2 h1 hlt
  have hsym := distanceSymbol_mono h1 hlt.le
  refine ⟨hsym, ?_⟩
  rw [extraBitCount_eq_countOfSymbol, extraBitCount_eq_countOfSymbol]
  exact countOfSymbol_mono hsym

/-! ### The steps of the symbol (R89) -/

theorem distanceSymbol_base (n : Nat) : distanceSymbol (base n) = n :=
  (functions_base_add (x := 0) (Nat.two_pow_pos _)).1

/-- The distance before the first of a class is the last of the class before. -/
theorem distanceSymbol_before_base {d n : Nat} (h1 : 1 ≤ d) (hb : d + 1 = base n) : distanceSymbol d + 1 = n := by
  have hbelow : ¬ n ≤ distanceSymbol d := fun h => by
    have := (le_distanceSymbol_iff h1).1 h
    omega
  have hn : n ≠ 0 := by
    rintro rfl
    have : base 0 = 1 := rfl
    omega
  have hprev : n - 1 ≤ distanceSymbol d := (le_distanceSymbol_iff h1).2 <| by
    have := base_strictMono (show n - 1 < n by omega)
    omega
  omega

/-- Off the first distances the symbol stays. -/
theorem distanceSymbol_succ_of_no_base {d : Nat} (h1 : 1 ≤ d) (hb : ∀ n, d + 1 ≠ base n) :
    distanceSymbol (d + 1) = distanceSymbol d := by
  have hreach : base (distanceSymbol (d + 1)) ≤ d + 1 := (le_distanceSymbol_iff (by omega)).1 le_rfl
  have hne := hb (distanceSymbol (d + 1))
  have hle : distanceSymbol (d + 1) ≤ distanceSymbol d := (le_distanceSymbol_iff h1).2 (by omega)
  exact le_antisymm hle (distanceSymbol_mono h1 (Nat.le_succ d))

/-- Settles O45: at a first distance the symbols on either side are `n - 1` and `n`, and the count, `l` and `r` are read off
them. -/
theorem symbolStepsByOneAtEachBase : Obligations.SymbolStepsByOneAtEachBase := by
  intro d h1
  refine ⟨?_, distanceSymbol_succ_of_no_base h1, fun n h4 hb => ?_⟩
  · rintro ⟨n, hb⟩
    rw [hb, distanceSymbol_base, distanceSymbol_before_base h1 hb]
  · have hafter : distanceSymbol (d + 1) = n := by rw [hb, distanceSymbol_base]
    have hbefore := distanceSymbol_before_base h1 hb
    have hd : 3 ≤ d := by
      have : base 4 ≤ base n := base_strictMono.monotone h4
      have : base 4 = 5 := rfl
      omega
    obtain ⟨hl, hr⟩ := symbol_fields hd
    obtain ⟨hl', hr'⟩ := symbol_fields (d := d + 1) (by omega)
    rw [Nat.add_sub_cancel] at hl' hr'
    rw [extraBitCount_eq_countOfSymbol, extraBitCount_eq_countOfSymbol, hafter, countOfSymbol, countOfSymbol,
      if_neg (by omega : ¬ n < 4)]
    refine ⟨fun heven => ⟨by omega, ?_⟩, fun hodd => ⟨?_, by omega, by omega⟩⟩
    · split <;> omega
    · rw [if_neg (by omega)]
      omega

end Sys2Proof.Machine
end

section
/-! PROOFS of the extra-bits family: what EXTRACT drives, and the count and the value of an evaluation as the ports carry
them (R91 to R98). -/

namespace Sys2Proof.Machine

/-! ### What EXTRACT drives (R62, R92 to R95) -/

/-- Settles O16: the next state of EXTRACT, with the slice, the count and the source's formula that it drives. -/
theorem extractLogPathDrivesCountAndValue : Obligations.ExtractLogPathDrivesCountAndValue := by
  intro s d hs hd hl hw hle
  rw [exec_extract, sliceOut_log hs (by omega) hw, countOut_log hs (by omega) hw,
    valueOut_log hs hd (by omega) hw hle, logValue]

/-- Settles O15: the next state of EXTRACT; whatever it drives on `x` is the value asked for. -/
theorem extractSmallPathDrivesNoExtraBits : Obligations.ExtractSmallPathDrivesNoExtraBits := by
  intro s d hs hd h1 _
  obtain ⟨hcount, hvalue⟩ := extract_small hs hd h1
  refine ⟨sliceOut s, ?_⟩
  rw [exec_extract, hcount, hvalue]

/-! ### The value as a slice (R96) -/

/-- Settles O47: both sides are the field `x` of the distance's normal form. -/
theorem valueIsTheSliceBelowTheSelector : Obligations.ValueIsTheSliceBelowTheSelector := by
  intro d h5
  obtain ⟨l, r, x, f⟩ := exists_logForm h5
  obtain ⟨-, -, hvalue⟩ := f.functions
  rw [hvalue, f.msb_eq, f.extraSlice_eq]

/-! ### The outputs of an evaluation on the ports (R97, R98, R114) -/

/-- No data output of a word loses a bit on its port (R114). -/
theorem outputsOf_toNat {d : Nat} (hd : d < 2 ^ 32) :
    (outputsOf d).sym.toNat = distanceSymbol d ∧ (outputsOf d).ebits.toNat = extraBitCount d ∧
      (outputsOf d).evalue.toNat = extraBitValue d :=
  ⟨toNat_ofNat_of_lt (symbol_fits (W := .extended) hd), toNat_ofNat_of_lt (count_fits (W := .extended) hd),
    toNat_ofNat_of_lt (value_fits (W := .extended) hd)⟩

/-- The value driven is below `2^ebits`, so it has no bit from `ebits` up (R97). -/
theorem outputsOf_value_bound {d : Nat} (hd : d < 2 ^ 32) :
    (outputsOf d).evalue.toNat < 2 ^ (outputsOf d).ebits.toNat ∧
      ∀ k, (outputsOf d).ebits.toNat ≤ k → (outputsOf d).evalue.getLsbD k = false := by
  obtain ⟨-, hcount, hvalue⟩ := outputsOf_toNat hd
  have hlt : (outputsOf d).evalue.toNat < 2 ^ (outputsOf d).ebits.toNat := by
    rw [hcount, hvalue]
    exact extraBitValue_lt d
  exact ⟨hlt, fun k hk => Nat.testBit_lt_two_pow (lt_of_lt_of_le hlt (Nat.pow_le_pow_right (by decide) hk))⟩

/-- The count driven is that of the symbol driven (R98). -/
theorem outputsOf_ebits_eq_countOfSymbol {d : Nat} (hd : d < 2 ^ 32) :
    (outputsOf d).ebits.toNat = countOfSymbol (outputsOf d).sym.toNat := by
  obtain ⟨hsym, hcount, -⟩ := outputsOf_toNat hd
  rw [hsym, hcount, extraBitCount_eq_countOfSymbol]

/-- Settles O48: ENCODE drives the outputs of the word, whose value fits in the count and whose count is `EB(sym)`. -/
theorem valueFitsInItsCount : Obligations.ValueFitsInItsCount := by
  intro d s hp h1
  obtain ⟨t, ht, -, -, -, hout⟩ := exec_encode_onPort hp
  obtain ⟨hlt, hbits⟩ := outputsOf_value_bound d.isLt
  refine ⟨t, ht, ?_⟩
  rw [hout h1]
  exact ⟨hlt, hbits, outputsOf_ebits_eq_countOfSymbol d.isLt⟩

end Sys2Proof.Machine
end

section
/-! PROOFS of the encode family: ENCODE by its pseudocode, its frame and its top-level function (R101 to R106, R117), and the
laws that the reference inverse and the buckets give (R107 to R112). -/

namespace Sys2Proof.Machine

/-! ### The reference inverse (R107, R108, R111) -/

theorem dec_eq_some_iff {n v d : Nat} : dec n v = some d ↔ v < 2 ^ countOfSymbol n ∧ base n + v = d := by
  simp [dec]

/-- The inverse gives every distance back from its symbol and its value (R108). -/
theorem dec_symbol_value {d : Nat} (h1 : 1 ≤ d) : dec (distanceSymbol d) (extraBitValue d) = some d := by
  have hvalue := extraBitValue_lt d
  rw [extraBitCount_eq_countOfSymbol] at hvalue
  exact dec_eq_some_iff.2 ⟨hvalue, base_symbol_add_value h1⟩

/-- The same on the ports, with the count that the symbol has (R98, R108). -/
theorem dec_outputsOf {d : Nat} (h1 : 1 ≤ d) (hd : d < 2 ^ 32) :
    dec (outputsOf d).sym.toNat (outputsOf d).evalue.toNat = some d ∧
      countOfSymbol (outputsOf d).sym.toNat = (outputsOf d).ebits.toNat := by
  obtain ⟨hsym, -, hvalue⟩ := outputsOf_toNat hd
  exact ⟨by rw [hsym, hvalue, dec_symbol_value h1], (outputsOf_ebits_eq_countOfSymbol hd).symm⟩

/-- ENCODE of a distance from 1 up that the port carries drives the outputs of that distance. -/
theorem exec_encode_ofNat {d : Nat} {s : State} (h1 : 1 ≤ d) (hp : d < 2 ^ s.cfg.distW.val) :
    ∃ t, exec (.encode (BitVec.ofNat 32 d)) s = .next t ∧ t.out = outputsOf d := by
  have hd := toNat_ofNat_onPort hp
  obtain ⟨t, ht, -, -, -, hout⟩ :=
    exec_encode_onPort (d := BitVec.ofNat 32 d) (s := s) (by rw [hd]; exact decide_eq_true hp)
  rw [hd] at hout
  exact ⟨t, ht, hout h1⟩

/-- Settles O38: ENCODE drives the outputs of the word, and the inverse puts the distance together again. -/
theorem roundTripThroughTheReferenceInverse : Obligations.RoundTripThroughTheReferenceInverse := by
  intro d s hp h1
  obtain ⟨t, ht, -, -, -, hout⟩ := exec_encode_onPort hp
  refine ⟨t, ht, ?_⟩
  rw [hout h1]
  exact dec_outputsOf h1 d.isLt

/-- Settles O39: a distance that the inverse gives is `base n + v`, and ENCODE drives `n` and `v` for it. -/
theorem encodeInvertsTheReferenceInverse : Obligations.EncodeInvertsTheReferenceInverse := by
  intro n v d s hdec hp
  obtain ⟨hv, rfl⟩ := dec_eq_some_iff.1 hdec
  have hpos := one_le_base n
  have hlt := of_decide_eq_true hp
  obtain ⟨t, ht, hout⟩ := exec_encode_ofNat (by omega) hlt
  obtain ⟨hsym, -, hvalue⟩ := outputsOf_toNat (lt_of_lt_of_le hlt (Nat.pow_le_pow_right (by decide) s.cfg.distW.hi))
  refine ⟨t, ht, ?_⟩
  rw [hout, hsym, hvalue]
  exact functions_base_add hv

/-- Settles O52: both distances are the first of the one class plus the one value. -/
theorem symbolAndValueDetermineTheDistance : Obligations.SymbolAndValueDetermineTheDistance := by
  intro d1 d2 h1 h2 hsym hvalue
  rw [← base_symbol_add_value h1, ← base_symbol_add_value h2, hsym, hvalue]

/-! ### The buckets within the domain (R110) -/

/-- The distances of a symbol run from the first of its class up to the first of the next. -/
theorem distanceSymbol_eq_iff {n d : Nat} (h1 : 1 ≤ d) :
    distanceSymbol d = n ↔ base n ≤ d ∧ d ≤ base n + 2 ^ countOfSymbol n - 1 := by
  have hreach : n ≤ distanceSymbol d ↔ base n ≤ d := le_distanceSymbol_iff h1
  have hnext : n + 1 ≤ distanceSymbol d ↔ base (n + 1) ≤ d := le_distanceSymbol_iff h1
  rw [base_succ] at hnext
  omega

/-- The first class that a build does not reach would begin two past `MAX_DIST`: the port lacks the one distance
`2^DIST_W` of the class before it (R67). -/
theorem base_two_mul_distW (W : DistW) : base (2 * W.val) = maxDist W + 2 := by
  have lo := W.lo
  have hb := base_of_log (l := W.val) (r := 0) (by omega) (by decide)
  have hpos := Nat.two_pow_pos W.val
  rw [Nat.add_zero] at hb
  rw [hb, maxDist]
  omega

/-- Settles O51: a bucket ends before the next begins, and the class after the last reached begins at `2^DIST_W + 1`. -/
theorem bucketsHoldTheirDistances : Obligations.BucketsHoldTheirDistances := by
  intro W n hn
  have hnext := base_succ n
  have hend := base_two_mul_distW W
  refine ⟨fun d h1 _ => distanceSymbol_eq_iff h1, fun hne => ?_, fun he => ?_, fun h29 => ?_⟩
  · have : base (n + 1) < base (2 * W.val) := base_strictMono (by omega)
    omega
  · have : n + 1 = 2 * W.val := by omega
    rw [this] at hnext
    omega
  · have : base (n + 1) ≤ base 30 := base_strictMono.monotone (by omega)
    have : base 30 = 32769 := by decide
    omega

/-! ### The test for ext (R105) -/

theorem fourteen_le_countOfSymbol_iff {n : Nat} : 14 ≤ countOfSymbol n ↔ 30 ≤ n := by
  unfold countOfSymbol
  split <;> omega

/-- Settles O50: 32769 is the first distance of class 30, the first class with 14 extra bits. -/
theorem fourFormsOfTheExtTest : Obligations.FourFormsOfTheExtTest := by
  intro d h1
  have hb : base 30 = 32769 := by decide
  have hsym : 30 ≤ distanceSymbol d ↔ 32769 ≤ d := by rw [le_distanceSymbol_iff h1, hb]
  refine ⟨extOf_eq_true_iff, by omega, hsym.symm, ?_⟩
  rw [extraBitCount_eq_countOfSymbol, fourteen_le_countOfSymbol_iff, hsym]
  rfl

/-! ### The laws over the whole domain (R112) -/

theorem lt_two_pow_of_le_maxDist {W : DistW} {d : Nat} (h : d ≤ maxDist W) : d < 2 ^ W.val := by
  have := Nat.two_pow_pos W.val
  unfold maxDist at h
  omega

/-- The outputs of an evaluation have every law of R112. -/
theorem lawsHold_outputsOf (W : DistW) : LawsHold W outputsOf := by
  have h32 : ∀ {d}, d ≤ maxDist W → d < 2 ^ 32 := fun h =>
    lt_of_lt_of_le (lt_two_pow_of_le_maxDist h) (Nat.pow_le_pow_right (by decide) W.hi)
  have hsym : ∀ {d}, d ≤ maxDist W → (outputsOf d).sym.toNat = distanceSymbol d := fun h => (outputsOf_toNat (h32 h)).1
  have hcount : ∀ {d}, d ≤ maxDist W → (outputsOf d).ebits.toNat = extraBitCount d := fun h =>
    (outputsOf_toNat (h32 h)).2.1
  constructor
  case symbol_mono =>
    intro d1 d2 h1 hlt hmax
    rw [hsym (by omega), hsym hmax]
    exact (symbolAndCountAreMonotone d1 d2 h1 hlt).1
  case value_bound => exact fun d _ hmax => outputsOf_value_bound (h32 hmax)
  case round_trip =>
    intro d h1 hmax
    obtain ⟨hdec, hEB⟩ := dec_outputsOf h1 (h32 hmax)
    exact ⟨decOnPort_eq_some.2 ⟨hdec, hmax⟩, hEB⟩
  case count_mono =>
    intro d1 d2 h1 hlt hmax
    rw [hcount (by omega), hcount hmax]
    exact (symbolAndCountAreMonotone d1 d2 h1 hlt).2
  case bucket =>
    intro n _ d h1 hmax
    rw [hsym hmax]
    exact distanceSymbol_eq_iff h1
  case bucket_end =>
    intro n hn
    obtain ⟨-, hinside, hlast, -⟩ := bucketsHoldTheirDistances W n hn
    split
    case isTrue he => have := hlast he; omega
    case isFalse hne => exact hinside hne

/-- Settles O53: the outputs that ENCODE drives are one function of the distance, and it has the laws. -/
theorem everyLawHoldsOverTheWholeDomain : Obligations.EveryLawHoldsOverTheWholeDomain := fun _ =>
  ⟨outputsOf, fun _ h1 hmax => exec_encode_ofNat h1 (lt_two_pow_of_le_maxDist hmax), lawsHold_outputsOf _⟩

/-! ### ENCODE as its whole next state (R101, R102) -/

/-- ENCODE of 0: the fault, with the free values drawn on the data outputs (R119). -/
theorem exec_encode_zero (s : State) :
    exec (.encode 0) s =
      .next (domainErrorState (drawSym s) (drawEbits s) (drawEvalue s) (takeDomainError s).wires s) := by
  rw [exec_encode, execEncode_zero]
  rfl

/-- ENCODE of a nonzero word of the port: its outputs by the three functions, and the result sampled. -/
theorem exec_encode_pos {d : Word} {s : State} (hp : onPort s.cfg.distW d.toNat = true) (h1 : 1 ≤ d.toNat) :
    exec (.encode d) s = .next (evaluatedState d (outputsOf d.toNat) (wiresOf d s) s) := by
  rw [exec_encode, execEncode_pos hp h1]
  rfl

/-- The outputs of the log path, by the `l` of R14 and the bits of `m` (R85, R93, R96). -/
theorem outputsOf_log {d l : Nat} (h5 : 5 ≤ d) (lo : 2 ^ l ≤ d - 1) (hi : d - 1 < 2 ^ (l + 1)) :
    outputsOf d =
      { sym := BitVec.ofNat 6 (2 * l + (d - 1) / 2 ^ (l - 1) % 2)
        ebits := BitVec.ofNat 5 (l - 1)
        evalue := BitVec.ofNat 30 ((d - 1) % 2 ^ (l - 1))
        domErr := false
        ext := decide (32768 < d) } := by
  obtain ⟨k, r, x, f⟩ := exists_logForm h5
  obtain rfl : k = l := f.msb_eq.symm.trans (msb_unique lo hi)
  obtain ⟨hsym, hcount, hvalue⟩ := f.functions
  have hr : (d - 1) / 2 ^ (k - 1) % 2 = r := f.halfSelector_eq
  have hx : (d - 1) % 2 ^ (k - 1) = x := f.extraSlice_eq
  rw [outputsOf, hsym, hcount, hvalue, hr, hx]
  rfl

/-- Settles O4: the three branches of the pseudocode are the fault, and the outputs on the small and on the log path. -/
theorem encodeFollowsItsPseudocode : Obligations.EncodeFollowsItsPseudocode := by
  intro d s hp
  refine ⟨fun h0 => ?_, fun h1 h5 => ⟨wiresOf d s, ?_⟩, fun h5 l lo hi => ⟨wiresOf d s, ?_⟩⟩
  · obtain rfl : d = 0 := BitVec.eq_of_toNat_eq h0
    exact ⟨_, _, _, _, exec_encode_zero s⟩
  · rw [exec_encode_pos hp h1, outputsOf_small h5]
  · rw [exec_encode_pos hp (by omega), outputsOf_log h5 lo hi]

/-- Settles O5: the outputs are those of the three functions, and no port loses a bit of them. -/
theorem encodeServesTheThreeFunctions : Obligations.EncodeServesTheThreeFunctions := fun d s hp h1 =>
  ⟨wiresOf d s, exec_encode_pos hp h1, outputsOf_toNat d.isLt⟩

/-! ### The frame of an evaluation (R73, R106, R128) -/

/-- Settles O18, by the cases of what an instruction can do: one with a word raises the fault or completes. -/
theorem evaluationAddsOneResultAndNothingElse : Obligations.EvaluationAddsOneResultAndNothingElse := by
  intro i s t hword h
  obtain ⟨rfl, -⟩ | ⟨rfl, -⟩ | ⟨rfl, -⟩ | ⟨hi, rfl⟩ | ⟨d, hi, -, -, rfl⟩ := exec_cases h
  case inl | inr.inl | inr.inr.inl => exact absurd rfl hword
  case inr.inr.inr.inl => exact ⟨rfl, rfl, rfl, hi.symm, .fault .domainError, rfl, rfl⟩
  case inr.inr.inr.inr =>
    exact ⟨rfl, rfl, rfl, hi.symm, sampleOf (outputsOf d.toNat), rfl, (List.append_nil _).symm⟩

/-! ### The top-level function (R117) -/

/-- Settles O33: both sides test for 0, and otherwise hold the three functions, whose values fit the exact widths. -/
theorem encodeSamplesTheTopLevelResult : Obligations.EncodeSamplesTheTopLevelResult := by
  intro s d
  have hd : (d.setWidth 32).toNat = d.toNat := BitVec.toNat_setWidth_of_le s.cfg.distW.hi
  obtain ⟨t, ht, hres, hdom, hext, hout⟩ :=
    exec_encode_onPort (d := d.setWidth 32) (s := s) (by rw [hd]; exact decide_eq_true d.isLt)
  refine ⟨t, ht, ?_⟩
  by_cases h0 : d.toNat = 0
  · have hz : d.setWidth 32 = 0 := BitVec.eq_of_toNat_eq (hd.trans h0)
    rw [encodeTop, if_pos h0]
    rw [hz] at hres
    exact hres
  · have hz : d.setWidth 32 ≠ 0 := fun e => h0 (by rw [← hd, e]; rfl)
    have hsym := symbol_fits d.isLt
    have hcount := count_fits d.isLt
    have hvalue := value_fits d.isLt
    obtain ⟨osym, ocount, ovalue⟩ := outputsOf_toNat (d.setWidth 32).isLt
    rw [hd] at hout hdom hext osym ocount ovalue
    rw [sampleOfWord, if_neg hz, hd] at hres
    rw [encodeTop, if_neg h0, hext, hdom, hout (Nat.one_le_iff_ne_zero.2 h0), osym, ocount, ovalue]
    refine ⟨?_, (toNat_ofNat_of_lt hsym).symm, (toNat_ofNat_of_lt hcount).symm, (toNat_ofNat_of_lt hvalue).symm, rfl,
      decide_eq_false h0⟩
    rw [hres, BitVec.setWidth_ofNat_of_le_of_lt (symW_le _) hsym, BitVec.setWidth_ofNat_of_le_of_lt (ebW_le _) hcount,
      BitVec.setWidth_ofNat_of_le_of_lt (evW_le _) hvalue]

end Sys2Proof.Machine
end

section
/-! PROOFS of the exceptions family: what DomainError leaves, which step records it, and where a step stops (R119 to
R128). -/

namespace Sys2Proof.Machine

/-! ### DomainError, and its end (R119, R125) -/

theorem exec_domerr (s : State) : exec .domerr s = .next (takeDomainError s) := rfl

theorem exec_domerr_eq_encode_zero (s : State) : exec .domerr s = exec (.encode 0) s := by
  rw [exec_domerr, exec_encode, execEncode_zero]

/-- Settles O8: the two instructions are one, and ENCODE of 0 is the fault. -/
theorem zeroDistanceRaisesDomainError : Obligations.ZeroDistanceRaisesDomainError := fun s =>
  ⟨_, _, _, _, (exec_domerr_eq_encode_zero s).trans (exec_encode_zero s), exec_encode_zero s⟩

/-- Settles O21: the step is ENCODE of the word, whose evaluation drives 0 on `dom_err` and leaves the fault record. -/
theorem domErrFallsAtTheNextNonzeroWord : Obligations.DomErrFallsAtTheNextNonzeroWord := by
  intro s d hold rest hprog hhold h1 hp
  have hstep := step_settled_word hprog (tPd_le_heldAfter hhold) hp
  exact ⟨_, hstep.trans (exec_encode_pos hp h1), rfl, rfl⟩

/-! ### What an instruction records (R121, R128) -/

theorem exec_extends_records {i : Instr} {s t : State} (h : exec i s = .next t) :
    s.faultRecord <+: t.faultRecord ∧ s.results <+: t.results := by
  obtain ⟨-, rfl⟩ | ⟨-, rfl⟩ | ⟨-, rfl⟩ | ⟨-, rfl⟩ | ⟨d, -, -, -, rfl⟩ := exec_cases h <;> simp

theorem exec_records_fault_only_of_zero {i : Instr} {s t : State} (h : exec i s = .next t)
    (hne : t.faultRecord ≠ s.faultRecord) : encode i = some 0 := by
  obtain ⟨-, rfl⟩ | ⟨-, rfl⟩ | ⟨-, rfl⟩ | ⟨hi, -⟩ | ⟨d, -, -, -, rfl⟩ := exec_cases h
  case inr.inr.inr.inl => exact hi
  all_goals exact absurd rfl hne

/-- Settles O19, by the cases of what a step can do: a sample adds one result, and an evaluated word is one
instruction. -/
theorem recordsAreNeverCleared : Obligations.RecordsAreNeverCleared := by
  intro s t h
  have hrecords : s.faultRecord <+: t.faultRecord ∧ s.results <+: t.results := by
    obtain ⟨-, rfl⟩ | ⟨rest, -, rfl⟩ | ⟨hold, rest, -, rfl⟩ | ⟨d, hold, rest, -, -, -, rfl⟩ |
      ⟨d, hold, rest, i, -, -, -, hexec⟩ := step_cases h
    · exact ⟨List.prefix_rfl, List.prefix_rfl⟩
    · exact ⟨List.prefix_rfl, List.prefix_rfl⟩
    · exact ⟨List.prefix_rfl, List.prefix_append _ _⟩
    · exact ⟨List.prefix_rfl, List.prefix_append _ _⟩
    · have hextends := exec_extends_records hexec
      exact hextends
  obtain ⟨⟨f, hf⟩, r, hr⟩ := hrecords
  exact ⟨⟨f, hf.symm⟩, r, hr.symm⟩

/-! ### The word behind a decoded instruction (R64) -/

theorem onPort_of_decode {W : DistW} {d : Word} {i : Instr} (h : decode W d = .instr i) :
    onPort W d.toNat = true := by
  by_contra hp
  rw [decode, if_pos (Bool.eq_false_of_not_eq_true hp)] at h
  cases h

theorem encode_of_decode {W : DistW} {d : Word} {i : Instr} (h : decode W d = .instr i) : encode i = some d := by
  obtain ⟨j, hj, henc, -⟩ := everyWordDecodesToTheClassOfItsSymbol W d (onPort_of_decode h)
  cases h.symm.trans hj
  exact henc

/-- Settles O20: only an evaluation touches the record, only an instruction of the word 0 adds to it, and that word
is the one decoded. -/
theorem onlyZeroIsRecordedAsAFault : Obligations.OnlyZeroIsRecordedAsAFault := by
  intro s t h hne
  obtain ⟨-, rfl⟩ | ⟨rest, -, rfl⟩ | ⟨hold, rest, -, rfl⟩ | ⟨d, hold, rest, -, -, -, rfl⟩ |
    ⟨d, hold, rest, i, hprog, -, hdec, hexec⟩ := step_cases h
  case inr.inr.inr.inr =>
    have hzero := exec_records_fault_only_of_zero hexec hne
    obtain rfl : d = 0 := Option.some.inj ((encode_of_decode hdec).symm.trans hzero)
    exact ⟨hold, rest, hprog⟩
  all_goals exact absurd rfl hne

/-! ### The step that drives a word, where it does not evaluate it (R67, R142) -/

/-- A word that the port cannot carry is refused, however long it is held. -/
theorem step_off_port {s : State} {d : Word} {hold : Nat} {rest : List HostAction}
    (hprog : s.program = .drive (some d) hold :: rest) (hp : onPort s.cfg.distW d.toNat = false) :
    step s = .refused .notOnPort := by
  have hrun : runWord d { s with program := rest } = .refused .notOnPort := by rw [runWord, decode, if_pos hp]
  rw [step, stepProgram, hprog]
  exact (if_congr Iff.rfl hrun (if_pos hp)).trans (ite_self _)

/-- A word of the port held for less than `T_PD` leaves the outputs unsettled. -/
theorem step_unsettled_word {s : State} {d : Word} {hold : Nat} {rest : List HostAction}
    (hprog : s.program = .drive (some d) hold :: rest) (hheld : heldAfter d hold s < s.cfg.tPd)
    (hp : onPort s.cfg.distW d.toNat = true) :
    step s = .next (leaveUnsettled (some d) (heldAfter d hold s) { s with program := rest }) := by
  rw [step, stepProgram, hprog]
  exact (if_neg hheld.not_ge).trans (if_neg (by rw [hp]; decide))

theorem step_answers_next_onPort {s : State} {d : Word} {hold : Nat} {rest : List HostAction}
    (hprog : s.program = .drive (some d) hold :: rest) (hp : onPort s.cfg.distW d.toNat = true) :
    ∃ t, step s = .next t := by
  by_cases hheld : s.cfg.tPd ≤ heldAfter d hold s
  · obtain ⟨t, ht, -⟩ := exec_encode_onPort (s := { s with program := rest }) hp
    exact ⟨t, (step_settled_word hprog hheld hp).trans ht⟩
  · exact ⟨_, step_unsettled_word hprog (by omega) hp⟩

/-- Settles O23, by the host's next operation: only a driven word can stop the step, and only off the port. -/
theorem theOnlyStopIsAWordOffThePort : Obligations.TheOnlyStopIsAWordOffThePort := by
  intro s
  match hprog : s.program with
  | [] => exact .inl ⟨_, by rw [step, stepProgram, hprog]⟩
  | .systemReset :: rest => exact .inl ⟨_, by rw [step, stepProgram, hprog]; rfl⟩
  | .drive none hold :: rest => exact .inl ⟨_, by rw [step, stepProgram, hprog]; rfl⟩
  | .drive (some d) hold :: rest =>
    cases hp : onPort s.cfg.distW d.toNat with
    | true => exact .inl (step_answers_next_onPort hprog hp)
    | false => exact .inr ⟨step_off_port hprog hp, d, hold, rest, rfl, Nat.le_of_not_lt (of_decide_eq_false hp)⟩

end Sys2Proof.Machine
end

section
/-! PROOFS of the reset and hazards family: what a system reset, an undefined input bit and a word held for less than
`T_PD` do, and what holding that word on does (R136 to R142). The key fact is what the hold time comes to, for a new word
and for the word that the port already carries. -/

namespace Sys2Proof.Machine

/-! ### The hold time of a word (R141, R142) -/

theorem heldAfter_new_word {s : State} {d : Word} {hold : Nat} (hd : s.dist ≠ some d) (hlt : hold < s.cfg.tPd) :
    heldAfter d hold s = hold := by
  rw [heldAfter, if_neg hd, Nat.min_eq_right hlt.le]

theorem heldAfter_same_word {s : State} {d : Word} (hold : Nat) (hd : s.dist = some d) :
    heldAfter d hold s = min s.cfg.tPd (s.held + hold) := by
  rw [heldAfter, if_pos hd]

/-- Settles O25: the hold times of the word add up to `T_PD`, so the step evaluates it. -/
theorem holdingOnSettlesTheOutputs : Obligations.HoldingOnSettlesTheOutputs := by
  intro s d hold rest hprog hd hle hp
  have hheld : s.cfg.tPd ≤ heldAfter d hold s := by
    rw [heldAfter_same_word hold hd]
    exact Nat.le_min.mpr ⟨le_rfl, hle⟩
  exact step_settled_word hprog hheld hp

/-! ### Outputs that have not settled (R140, R142) -/

/-- What the model draws for the outputs and the signals are some values of them. -/
theorem leaveUnsettled_eq_unsettledState (dist : Option Word) (held : Nat) (s : State) :
    ∃ o w, leaveUnsettled dist held s = unsettledState dist held o w s :=
  ⟨_, _, rfl⟩

/-- A word of the port whose hold time comes to `n`, less than `T_PD`, leaves some value on every output and signal. -/
theorem step_early_word {s : State} {d : Word} {hold n : Nat} {rest : List HostAction}
    (hprog : s.program = .drive (some d) hold :: rest) (hp : onPort s.cfg.distW d.toNat = true)
    (hn : heldAfter d hold s = n) (hlt : n < s.cfg.tPd) :
    ∃ o w, step s = .next (unsettledState (some d) n o w { s with program := rest }) := by
  obtain ⟨o, w, hdraws⟩ := leaveUnsettled_eq_unsettledState (some d) n { s with program := rest }
  have hstep := step_unsettled_word hprog (by rwa [hn]) hp
  exact ⟨o, w, by rw [hstep, hn, hdraws]⟩

/-- Settles O24, by whether the port already carries the word. -/
theorem earlySampleIsUnspecified : Obligations.EarlySampleIsUnspecified := by
  intro s d hold rest hprog hp
  constructor
  · intro hd hlt
    exact step_early_word hprog hp (heldAfter_new_word hd hlt) hlt
  · intro hd hlt
    have hheld : heldAfter d hold s = s.held + hold := by
      rw [heldAfter_same_word hold hd, Nat.min_eq_right hlt.le]
    exact step_early_word hprog hp hheld hlt

theorem step_undefined_bit {s : State} {hold : Nat} {rest : List HostAction}
    (hprog : s.program = .drive none hold :: rest) :
    step s = .next (leaveUnsettled none 0 { s with program := rest }) := by
  rw [step, stepProgram, hprog]
  rfl

/-- Settles O26: the hold time of an undefined input plays no part in the step. -/
theorem undefinedInputIsUnspecified : Obligations.UndefinedInputIsUnspecified := by
  intro s hold rest hprog
  obtain ⟨o, w, hdraws⟩ := leaveUnsettled_eq_unsettledState none 0 { s with program := rest }
  exact ⟨o, w, by rw [step_undefined_bit hprog, hdraws]⟩

/-! ### A reset of the system around the block (R136) -/

/-- Settles O27: the block has no reset, so the operation is the identity on the state without it. -/
theorem systemResetHasNoEffect : Obligations.SystemResetHasNoEffect := by
  intro s rest hprog
  calc step s
      = present .systemReset { s with program := rest } := by rw [step, stepProgram, hprog]
    _ = .next { s with program := rest } := rfl

end Sys2Proof.Machine
end

section
/-! PROOFS of the remaining family: the step that runs a decoded word, and the invariant at power-up (R39, R73, R137,
R141). -/

namespace Sys2Proof.Machine

/-! ### The step that runs a decoded word (R73, R141) -/

theorem runWord_of_decode {s : State} {d : Word} {i : Instr} (h : decode s.cfg.distW d = .instr i) :
    runWord d s = exec i s := by
  rw [runWord, h]

/-- Settles O1: a word driven for `T_PD` has been held for it, so the step runs the word. -/
theorem stepRunsTheDecodedWord : Obligations.StepRunsTheDecodedWord := by
  intro s d hold rest i hprog hhold hdec
  have hheld : s.cfg.tPd ≤ heldAfter d hold s := tPd_le_heldAfter hhold
  calc step s
      = present (.drive (some d) hold) { s with program := rest } := by rw [step, stepProgram, hprog]
    _ = runWord d { s with program := rest } := if_pos hheld
    _ = exec i { s with program := rest } := runWord_of_decode hdec

/-! ### The invariant at power-up (R39, R137) -/

/-- A port as wide as the values drawn for it carries every one of them. -/
theorem toNat_lt_of_width_eq {n k : Nat} (v : BitVec n) (h : k = n) : v.toNat < 2 ^ k :=
  h ▸ v.isLt

/-- The widths of the extended build (R8), which are those of the model's own types for the ports. -/
theorem extended_widths :
    symW .extended = 6 ∧ ebW .extended = 5 ∧ evW .extended = 30 ∧ lW .extended = 5 := by
  decide

theorem reset_settled : State.reset.settled = false := settled_of_undriven rfl

/-- The free values at power-up fit their ports by the widths of the build alone. -/
theorem reset_inv : State.reset.Inv := by
  obtain ⟨hsym, hebits, hevalue, hl⟩ := extended_widths
  exact
    { dist_fits := fun _ hd => nomatch hd
      sym_fits := toNat_lt_of_width_eq _ hsym
      ebits_fits := toNat_lt_of_width_eq _ hebits
      evalue_fits := toNat_lt_of_width_eq _ hevalue
      m_fits := toNat_lt_of_width_eq _ rfl
      l_fits := toNat_lt_of_width_eq _ hl
      x_fits := toNat_lt_of_width_eq _ hevalue
      held_le := Nat.zero_le _
      agrees := fun _ _ hd => nomatch hd
      record := rfl }

/-- Settles O2: power-up has the invariant, and its port carries no defined word. -/
theorem invariantHoldsAtReset : Obligations.InvariantHoldsAtReset :=
  ⟨reset_inv, rfl, reset_settled, rfl, rfl⟩

end Sys2Proof.Machine
end
